-- ==== Sys2Proof/Word.lean ====
section
/-! DEFINITION. The word types of FMD's interfaces (30_encoding.md R80, R90; 00_scope.md R11, R15). -/

namespace Sys2Proof

/-- A command word: 32 bits, bit 31 the most significant (R80). -/
abbrev Word := BitVec 32

/-- One byte of a link that carries commands or samples as bytes (R64). -/
abbrev Byte := BitVec 8

/-- An output sample: 16-bit two's complement (R90). -/
abbrev Sample := BitVec 16

/-- An IEEE 754 binary64 value, held in its 64-bit interchange format (R11). -/
abbrev F64 := BitVec 64

/-- A buffer inside the render engine: a sequence of integers, element 0 the earliest (R15). -/
abbrev Buffer := List Int

/-- The fields of the binary64 interchange format and the exact literals the rules name (R11). -/
def F64.posZero : F64 := 0x0000000000000000#64
def F64.one : F64 := 0x3FF0000000000000#64
/-- `1.01`: the binary64 value nearest to 1.01 (R11). -/
def F64.onePointZeroOne : F64 := 0x3FF028F5C28F5C29#64
def F64.nineteen : F64 := 0x4033000000000000#64
/-- `127.0`, the velocity divisor of R164. -/
def F64.oneTwentySeven : F64 := 0x405FC00000000000#64
/-- `32767.0`, the modulation divisor of R121. -/
def F64.fullScale : F64 := 0x40DFFFC000000000#64

end Sys2Proof
end

