-- ==== Sys2Proof/Syntax.lean ====
section
/-! DEFINITION. The instructions of FMD: one constructor per row of spec/opcode_table.json. -/

namespace Sys2Proof

/-- The three host commands (30_encoding.md R81) and the five routing datapaths that the configuration field ALG[v]
selects (R88). Operands are the unsigned integers of R85; `Instr.wellFormed` says which fit their fields. -/
inductive Instr where
  /-- PRIME, the handshake (R82, R100). -/
  | prime
  /-- PULL F, a pull of F frames (R83, R101). -/
  | pull (frames : Nat)
  /-- NOTE_ON note, vel (R84, R164). -/
  | noteOn (note vel : Nat)
  /-- ALG0, the fully serial chain (R142). -/
  | alg0
  /-- ALG1, op3 and op2 summed into op1 (R143). -/
  | alg1
  /-- ALG2, op3 modulates op1 and op2 (R144). -/
  | alg2
  /-- ALG3, the default: op3 modulates op2 (R145). -/
  | alg3
  /-- ALG4, additive (R146). -/
  | alg4
  deriving DecidableEq, Repr

end Sys2Proof
end

