-- ==== Sys2Proof/WellFormed.lean ====
section
/-! DEFINITION. Which instructions have an encoding: every operand fits its field (30_encoding.md R83, R84, R89). -/

namespace Sys2Proof

/-- FRAMES has 24 bits, NOTE 8 and VEL 7; "An assembler refuses an operand that does not fit its field" (R89). -/
def Instr.wellFormed : Instr → Bool
  | .prime => true
  | .pull frames => decide (frames < 2 ^ 24)
  | .noteOn note vel => decide (note < 2 ^ 8) && decide (vel < 2 ^ 7)
  | .alg0 => true
  | .alg1 => true
  | .alg2 => true
  | .alg3 => true
  | .alg4 => true

end Sys2Proof
end

