-- ==== Sys2Proof/Decode.lean ====
section
/-! DEFINITION. The decoder of command words (30_encoding.md R92), the decoder of the selector field ALG[v] (R88),
the byte order of a link that carries bytes (20_memory.md R64), and the encoders. -/

namespace Sys2Proof

/-- Why a word or a selector stands for no instruction (R86, R88). -/
inductive Illegal where
  /-- OP is 0x0 or in 0x4..0xF (R81). -/
  | reservedOp (op : BitVec 4)
  /-- A bit that R82 to R84 mark "reserved, must be 0" is 1. -/
  | reservedBits (op : BitVec 4)
  /-- ALG is 5, 6 or 7 (R88). -/
  | illegalSelector (alg : BitVec 3)
  deriving DecidableEq, Repr

/-- `bits[hi:lo]` with `len` bits from bit `lo` up (R10). -/
def field (w : Word) (lo len : Nat) : BitVec len := w.extractLsb' lo len

/-- R92: the decode function, total on every 32-bit word. Operands are zero-extended (R85). -/
def decode (w : Word) : Except Illegal Instr :=
  let op : BitVec 4 := field w 28 4
  if op = 0x1#4 then
    if field w 0 28 = 0#28 then .ok .prime else .error (.reservedBits op)
  else if op = 0x2#4 then
    if field w 24 4 = 0#4 then .ok (.pull (field w 0 24).toNat) else .error (.reservedBits op)
  else if op = 0x3#4 then
    if field w 16 12 = 0#12 ∧ field w 7 1 = 0#1 then
      .ok (.noteOn (field w 8 8).toNat (field w 0 7).toNat)
    else .error (.reservedBits op)
  else .error (.reservedOp op)

/-- R88: the routing datapath that a value of the 3-bit field ALG[v] selects. -/
def decodeSelector (alg : BitVec 3) : Except Illegal Instr :=
  if alg = 0#3 then .ok .alg0
  else if alg = 1#3 then .ok .alg1
  else if alg = 2#3 then .ok .alg2
  else if alg = 3#3 then .ok .alg3
  else if alg = 4#3 then .ok .alg4
  else .error (.illegalSelector alg)

/-- R64: a word's bytes on a link, "the least significant byte of a command word or sample goes first". -/
def wordBytes (w : Word) : List Byte := [field w 0 8, field w 8 8, field w 16 8, field w 24 8]

/-- R64 for a sample on such a link. -/
def sampleBytes (x : Sample) : List Byte := [x.extractLsb' 0 8, x.extractLsb' 8 8]

/-- The word that four bytes of a link stand for (R64). -/
def wordOfBytes (b0 b1 b2 b3 : Byte) : Word := b3 ++ b2 ++ b1 ++ b0

/-- One command from the bytes of a link, with the bytes that follow: "A decoder reads exactly one word per command"
(R87). `none`: fewer than four bytes, so no word has arrived yet. -/
def decodeBytes : List Byte → Option (Except Illegal Instr × List Byte)
  | b0 :: b1 :: b2 :: b3 :: rest => some (decode (wordOfBytes b0 b1 b2 b3), rest)
  | _ => none

/-- The decoder on a row of spec/opcode_table.json: the rows of 3 bits (one byte) are values of the selector field,
which is bits[2:0] (R88); every other row is a command word (R80), read through the bytes of R64. Log 7. -/
def decodeTableWord (nbits w : Nat) : Option Instr :=
  if nbits ≤ 8 then (decodeSelector (BitVec.ofNat 3 w)).toOption
  else match decodeBytes (wordBytes (BitVec.ofNat 32 w)) with
    | some (.ok i, _) => some i
    | _ => none

/-- What an instruction is written as: a command word, or a value of the selector field. -/
inductive Encoding where
  | word (w : Word)
  | selector (alg : BitVec 3)
  deriving DecidableEq, Repr

/-- The encoder: the word of R82, R83 or R84, or the selector value of R88. -/
def encode : Instr → Encoding
  | .prime => .word (0x1#4 ++ 0#28)
  | .pull frames => .word (0x2#4 ++ 0#4 ++ BitVec.ofNat 24 frames)
  | .noteOn note vel => .word (0x3#4 ++ 0#12 ++ BitVec.ofNat 8 note ++ 0#1 ++ BitVec.ofNat 7 vel)
  | .alg0 => .selector 0#3
  | .alg1 => .selector 1#3
  | .alg2 => .selector 2#3
  | .alg3 => .selector 3#3
  | .alg4 => .selector 4#3

/-- The decoder that fits the kind of encoding. -/
def decodeEncoding : Encoding → Except Illegal Instr
  | .word w => decode w
  | .selector alg => decodeSelector alg

/-- The assembler's words: "An assembler refuses an operand that does not fit its field" (R89). `none` for such an
operand and for ALG0 to ALG4, which are not command words. -/
def assemble (i : Instr) : Option Word :=
  match i.wellFormed, encode i with
  | true, .word w => some w
  | _, _ => none

end Sys2Proof
end

