-- ==== Sys2Proof/Config.lean ====
section
/-! DEFINITION. The configuration record (00_scope.md R7 to R9) and the free values: opaque constants
without a body, so that nothing can be proved of the value a rule leaves open. -/

namespace Sys2Proof

/-- The operator index k in 1..3, the source's op1, op2, op3 (R8). -/
inductive OpIx where
  | op1 | op2 | op3
  deriving DecidableEq, Repr

/-- The operator (v,k) (R8). -/
structure OpRef where
  voice : Nat
  op : OpIx
  deriving DecidableEq, Repr

/-- COMMIT_MODE (R9, R70, R71). `unlisted` is any value a record may carry that R9 does not list: "an illegal value is not
replaced by a legal one" (R33), and R186 refuses it. -/
inductive CommitMode where
  | bufferAtomic | fieldRacy
  | unlisted (code : Nat)
  deriving DecidableEq, Repr

/-- IDX_TIE (R9, R14), with the values R9 does not list, as for COMMIT_MODE. -/
inductive IdxTie where
  | even | away
  | unlisted (code : Nat)
  deriving DecidableEq, Repr

/-- R186 check 3: COMMIT_MODE takes one of its listed values. -/
def CommitMode.isListed : CommitMode → Bool
  | .bufferAtomic => true
  | .fieldRacy => true
  | .unlisted _ => false

/-- R186 check 3: IDX_TIE takes one of its listed values. -/
def IdxTie.isListed : IdxTie → Bool
  | .even => true
  | .away => true
  | .unlisted _ => false

/-- The control registers of one operator: ATTACK, DECAY, VOLUME and RATE of (v,k) (R8, R32). The numbers are
held unbounded and signed, so that a record outside the legal ranges can be loaded and refused by R186. -/
structure OpConfig where
  attack : Int
  decay : Int
  volume : F64
  rate : F64
  deriving DecidableEq, Repr

/-- The configuration of one voice: ALG[v] in its 3-bit field (R88) and its three operators. -/
structure VoiceConfig where
  alg : BitVec 3
  op1 : OpConfig
  op2 : OpConfig
  op3 : OpConfig
  deriving DecidableEq, Repr

/-- The control registers that belong to no voice (R8, R9). POLYPHONY and WT_LEN are registers of their own: that the
record lists as many voices and entries is for the check at reset to find (log 12). `noteFreq` is NOTE_FREQ by key: the entry at index
n, or no entry at all, is what key n holds (R62). -/
structure GlobalConfig where
  polyphony : Int
  sampleRate : Int
  wtLen : Int
  wt : List Int
  noteFreq : List (Option F64)
  maxFrames : Int
  initPitch : F64
  initNoteVol : F64
  commitMode : CommitMode
  satMin : Int
  idxTie : IdxTie
  deriving DecidableEq, Repr

/-- The whole configuration record that reset loads (R7, R210): the values that belong to no voice, and those of the
voices it lists, in voice order. -/
structure Config where
  shared : GlobalConfig
  voices : List VoiceConfig
  deriving DecidableEq, Repr

/-- An operator's record with the default detune ratio given; ATTACK, DECAY and VOLUME have no value in the spec.
DESIGN CHOICE (log 1), unsafe: the values of the base configuration of 95_test_vectors.md. -/
def OpConfig.initial (rate : F64) : OpConfig :=
  { attack := 0, decay := 0, volume := F64.one, rate := rate }

/-- A voice with ALG = 3 and the detune ratios 1.0, 1.01 and 19.0, the defaults of R8. -/
def VoiceConfig.initial : VoiceConfig :=
  { alg := 3#3, op1 := OpConfig.initial F64.one, op2 := OpConfig.initial F64.onePointZeroOne,
    op3 := OpConfig.initial F64.nineteen }

/-- The record that `State.reset` loads. SAMPLE_RATE, INIT_PITCH, INIT_NOTE_VOL and the three mode switches are
the defaults of R8 and R9. The parameters R8 leaves OPEN have the values of the base configuration of
95_test_vectors.md: DESIGN CHOICE (log 1), unsafe. -/
def Config.initial : Config :=
  { shared :=
      { polyphony := 1, sampleRate := 44100, wtLen := 4, wt := [0, 1000, 0, -1000], noteFreq := [], maxFrames := 4096,
        initPitch := F64.posZero, initNoteVol := F64.posZero,
        commitMode := .bufferAtomic, satMin := -32768, idxTie := .even }
    voices := [VoiceConfig.initial] }

/-- FREE VALUE (log 4), safe: the sign and payload of the NaN that an operation on x and y returns. IEEE 754,
which R11 names, does not fix them. -/
opaque Config.nanBits (x y : F64) : F64

/-- FREE VALUES (log 3), safe: what PHASE, ENV_N, ENV_CUR and RESET of an operator hold after the PULL that
reached it ended in NONFINITE (R181: "unspecified"). `draw` numbers the faulted PULLs of a run. -/
opaque Config.unspecifiedPhase (draw : Nat) (r : OpRef) : F64
opaque Config.unspecifiedEnvN (draw : Nat) (r : OpRef) : BitVec 34
opaque Config.unspecifiedEnvCur (draw : Nat) (r : OpRef) : F64
opaque Config.unspecifiedReset (draw : Nat) (r : OpRef) : Bool

end Sys2Proof
end

