-- ==== Sys2Proof/Machine/Float64.lean ====
section
/-! DEFINITION. Binary64 arithmetic with roundTiesToEven (00_scope.md R11): the exact result as a rational number
times a power of two, rounded once. -/

namespace Sys2Proof.Machine

/-- The sign bit. -/
def signBit (x : F64) : Bool := x.msb

/-- The 11-bit exponent field. -/
def expField (x : F64) : Nat := (x.extractLsb' 52 11).toNat

/-- The 52-bit fraction field. -/
def fracField (x : F64) : Nat := (x.extractLsb' 0 52).toNat

/-- R11: "`isFinite(x)` is false for infinities and NaN". -/
def isFinite (x : F64) : Bool := expField x != 2047

def isNaN (x : F64) : Bool := expField x == 2047 && fracField x != 0

def isInf (x : F64) : Bool := expField x == 2047 && fracField x == 0

/-- The significand of a finite value as an integer: |x| = significand x * 2 ^ scale x. -/
def significand (x : F64) : Nat := if expField x = 0 then fracField x else 2 ^ 52 + fracField x

/-- The exponent of the significand's last bit. -/
def scale (x : F64) : Int := if expField x = 0 then -1074 else (expField x : Int) - 1075

/-- The significand with the value's sign. -/
def signedSignificand (x : F64) : Int := if signBit x then -(significand x : Int) else significand x

/-- The number a finite value stands for. -/
def toRat (x : F64) : ℚ := (signedSignificand x : ℚ) * (2 : ℚ) ^ (scale x)

/-- A value from its sign and the other 63 bits read as one number. -/
def ofMagnitude (neg : Bool) (mag : Nat) : F64 :=
  BitVec.ofNat 64 (if neg then 2 ^ 63 + mag else mag)

/-- The 63 bits of an infinity. -/
def infMagnitude : Nat := 2047 * 2 ^ 52

def infinity (neg : Bool) : F64 := ofMagnitude neg infMagnitude

def zero (neg : Bool) : F64 := ofMagnitude neg 0

/-- A quiet NaN whose sign and payload are free (log 4): R11 names IEEE 754, which leaves them open. -/
def quietNaN (x y : F64) : F64 := Config.nanBits x y ||| 0x7FF8000000000000#64

/-- The integer nearest to n / d, ties to even. -/
def roundQuotient (n d : Nat) : Nat :=
  let q := n / d
  let r := n % d
  if d < 2 * r ∨ (2 * r = d ∧ q % 2 = 1) then q + 1 else q

/-- The integer nearest to (n / d) * 2 ^ sh, ties to even. -/
def roundScaled (n d : Nat) (sh : Int) : Nat :=
  roundQuotient (n * 2 ^ sh.toNat) (d * 2 ^ (-sh).toNat)

/-- The k with 2 ^ k ≤ n / d < 2 ^ (k + 1), for n and d above 0. -/
def floorLog2 (n d : Nat) : Int :=
  let k : Int := (n.log2 : Int) - (d.log2 : Int)
  if n * 2 ^ (-k).toNat < d * 2 ^ k.toNat then k - 1 else k

/-- The exponent of the last significand bit of a result near (n / d) * 2 ^ e: 53 significant bits, but never below
the subnormal range. -/
def lastPlace (n d : Nat) (e : Int) : Int := max (e + floorLog2 n d - 52) (-1074)

/-- The binary64 value nearest to (n / d) * 2 ^ e with the sign given, for n and d above 0: roundTiesToEven, with
gradual underflow, and an infinity past the largest finite value (R11). -/
def roundToF64 (neg : Bool) (n d : Nat) (e : Int) : F64 :=
  let q := lastPlace n d e
  let mag := (q + 1074).toNat * 2 ^ 52 + roundScaled n d (e - q)
  ofMagnitude neg (min mag infMagnitude)

/-- R11: `f64(i)` converts an integer. -/
def f64 (i : Int) : F64 :=
  if i = 0 then zero false else roundToF64 (decide (i < 0)) i.natAbs 1 0

/-- A finite value as a multiple of 2 ^ e, for an e at most its scale. -/
def alignedTo (e : Int) (x : F64) : Int := signedSignificand x * ((2 ^ (scale x - e).toNat : Nat) : Int)

/-- R11: `fadd(x,y)`. An exact zero sum is +0.0 unless both operands are negative. -/
def fadd (x y : F64) : F64 :=
  if isNaN x || isNaN y then quietNaN x y
  else if isInf x then (if isInf y && signBit x != signBit y then quietNaN x y else x)
  else if isInf y then y
  else
    let e := min (scale x) (scale y)
    let sum := alignedTo e x + alignedTo e y
    if sum = 0 then zero (signBit x && signBit y)
    else roundToF64 (decide (sum < 0)) sum.natAbs 1 e

/-- The value with its sign bit inverted. -/
def fneg (x : F64) : F64 := x ^^^ 0x8000000000000000#64

/-- R11: `fsub(x,y)`. -/
def fsub (x y : F64) : F64 :=
  if isNaN x || isNaN y then quietNaN x y else fadd x (fneg y)

/-- R11: `fmul(x,y)`. -/
def fmul (x y : F64) : F64 :=
  let neg := signBit x != signBit y
  if isNaN x || isNaN y then quietNaN x y
  else if isInf x || isInf y then
    (if (isFinite x && significand x == 0) || (isFinite y && significand y == 0) then quietNaN x y
     else infinity neg)
  else if significand x = 0 ∨ significand y = 0 then zero neg
  else roundToF64 neg (significand x * significand y) 1 (scale x + scale y)

/-- R11: `fdiv(x,y)`. -/
def fdiv (x y : F64) : F64 :=
  let neg := signBit x != signBit y
  if isNaN x || isNaN y then quietNaN x y
  else if isInf x then (if isInf y then quietNaN x y else infinity neg)
  else if isInf y then zero neg
  else if significand y = 0 then (if significand x = 0 then quietNaN x y else infinity neg)
  else if significand x = 0 then zero neg
  else roundToF64 neg (significand x) (significand y) (scale x - scale y)

/-- The 63 magnitude bits with the sign as an integer: it orders every value that is no NaN. -/
def orderKey (x : F64) : Int :=
  let mag : Int := ((expField x * 2 ^ 52 + fracField x : Nat) : Int)
  if signBit x then -mag else mag

/-- The order of binary64 values: false where an operand is NaN, and -0.0 equals +0.0. -/
def fle (x y : F64) : Bool := !isNaN x && !isNaN y && decide (orderKey x ≤ orderKey y)

/-- x lies in [0.0, 1.0]; "a NaN fails" (R186). -/
def inUnit (x : F64) : Bool := fle F64.posZero x && fle x F64.one

/-- x is finite and above 0.0 (R62, R186). -/
def isPositiveFinite (x : F64) : Bool := isFinite x && decide (0 < orderKey x)

end Sys2Proof.Machine
end

