-- ==== Sys2Proof/Machine/Numeric.lean ====
section
/-! DEFINITION. The conversions to integers and the integer primitives (00_scope.md R12 to R15). -/

namespace Sys2Proof.Machine

/-- R12: "the integer nearest to x in the direction of zero", for a finite x; `none` otherwise. -/
def trunc (x : F64) : Option Int :=
  if isFinite x then
    some (Int.tdiv (alignedTo (min (scale x) 0) x) ((2 ^ (-scale x).toNat : Nat) : Int))
  else none

/-- The integer nearest to n / d, a half going to the even one or away from zero (R14). -/
def roundTie (tie : IdxTie) (n d : Nat) : Nat :=
  let q := n / d
  let r := n % d
  if d < 2 * r ∨ (2 * r = d ∧ (tie = .away ∨ q % 2 = 1)) then q + 1 else q

/-- R14: the integer nearest to a finite x, ties by IDX_TIE; `none` otherwise. What it gives for an unlisted IDX_TIE is
never used: `sampleStep` stops there (log 9). -/
def roundIdx (tie : IdxTie) (x : F64) : Option Int :=
  if isFinite x then
    let mag : Int := roundTie tie (significand x * 2 ^ (scale x).toNat) (2 ^ (-scale x).toNat)
    some (if signBit x then -mag else mag)
  else none

/-- R13: the unique r with 0 ≤ r < L and i - r divisible by L, for L above 0. -/
def floorMod (i l : Int) : Int := i % l

/-- R13: the quotient s / p truncated toward zero, for p above 0. -/
def tquot (s : Int) (p : Nat) : Int := Int.tdiv s (p : Int)

/-- R15: `sat16(s)` is min(max(s, SAT_MIN), 32767). -/
def sat16 (satMin s : Int) : Int := min (max s satMin) 32767

/-- R15: `silence(F)`, the sequence of F zeros. -/
def silence (frames : Nat) : Buffer := List.replicate frames 0

/-- A buffer of samples as it leaves on the output port, in 16-bit two's complement (R90). -/
def toSamples (b : Buffer) : List Sample := b.map (BitVec.ofInt 16)

end Sys2Proof.Machine
end

