-- ==== Sys2Proof/Machine/Flags.lean ====
section
/-! DEFINITION. FMD has no condition flags (00_scope.md R17). Its status is PRIMED and the fault code; this file
holds the fault codes (60_exceptions.md R180) and the configuration check that sets FAULT at reset (R186). -/

namespace Sys2Proof.Machine

/-- The fault codes of R180. Codes 8 to 15 are reserved and have no constructor. -/
inductive FaultCode where
  | none | cfgAlg | cfgParam | badEncoding | pullBeforePrime | primeTwice | badFrames | nonfinite
  deriving DecidableEq, Repr

/-- The 4-bit value of each code (R180). -/
def faultBits : FaultCode → BitVec 4
  | .none => 0#4
  | .cfgAlg => 1#4
  | .cfgParam => 2#4
  | .badEncoding => 3#4
  | .pullBeforePrime => 4#4
  | .primeTwice => 5#4
  | .badFrames => 6#4
  | .nonfinite => 7#4

/-- R186 check 1: 1 ≤ P ≤ 255. -/
def polyphonyLegal (c : Config) : Bool := decide (1 ≤ c.shared.polyphony) && decide (c.shared.polyphony ≤ 255)

/-- R186 check 2: ALG[v] is in 0..4 for every v in 0..P-1. -/
def algLegal (c : Config) : Bool :=
  (c.voices.take c.shared.polyphony.toNat).all fun v => decide (v.alg.toNat ≤ 4)

/-- The record lists P voices and L table entries. DESIGN CHOICE (log 12), safe: one that lists fewer or more fails check 3,
where the spec has no such record. -/
def recordComplete (c : Config) : Bool :=
  decide (c.shared.polyphony = c.voices.length) && decide (c.shared.wtLen = c.shared.wt.length)

/-- R186 check 3 on one operator: "every ATTACK[v][k], DECAY[v][k] in 0..2^32-1; every VOLUME[v][k] in [0.0, 1.0]
(a NaN fails); every RATE[v][k] finite". -/
def opConfigLegal (o : OpConfig) : Bool :=
  decide (0 ≤ o.attack) && decide (o.attack < 2 ^ 32) && decide (0 ≤ o.decay) && decide (o.decay < 2 ^ 32) &&
  inUnit o.volume && isFinite o.rate

def voiceConfigLegal (v : VoiceConfig) : Bool :=
  opConfigLegal v.op1 && opConfigLegal v.op2 && opConfigLegal v.op3

/-- R186 check 3 on NOTE_FREQ: every entry is none or finite and above 0.0, and keys from 128 up are none. -/
def noteFreqLegal (t : List (Option F64)) : Bool :=
  (t.all fun e => match e with | some f => isPositiveFinite f | .none => true) &&
    ((t.drop 128).all fun e => e.isNone)

/-- R186 check 3 on the registers that belong to no voice. -/
def sharedLegal (g : GlobalConfig) : Bool :=
  decide (1 ≤ g.sampleRate) && decide (g.sampleRate < 2 ^ 32) &&
  decide (1 ≤ g.wtLen) && decide (g.wtLen ≤ 2 ^ 24) &&
  (g.wt.all fun w => decide (-32768 ≤ w) && decide (w ≤ 32767)) &&
  noteFreqLegal g.noteFreq &&
  decide (1 ≤ g.maxFrames) && decide (g.maxFrames < 2 ^ 24) &&
  isFinite g.initPitch && inUnit g.initNoteVol &&
  g.commitMode.isListed && (decide (g.satMin = -32768) || decide (g.satMin = -32767)) && g.idxTie.isListed

/-- R186: the configuration check, in its order; the first failing check decides. -/
def validate (c : Config) : FaultCode :=
  if !polyphonyLegal c then .cfgParam
  else if !algLegal c then .cfgAlg
  else if !(recordComplete c && sharedLegal c.shared && c.voices.all voiceConfigLegal) then .cfgParam
  else .none

end Sys2Proof.Machine
end

