-- ==== Sys2Proof/Machine/State.lean ====
section
/-! DEFINITION. The machine's state as plain data, the reasons a step can stop, and reset. -/

namespace Sys2Proof.Machine

/-- Why a step stops without a next state. No configuration that passes R186 leads to one of these: FMD's own faults
are codes in FAULT (R180), and raising one is a next state. All are SAFE: the spec gives no effect there (log 9). -/
inductive Fault where
  /-- Raised by NOTE_ON, PULL and ALG0 to ALG4 where the voice they act on does not exist: RR, or the combiner's voice,
  is not below P, or not P voices are held, or none (R25, R186 rule these out). Safe. -/
  | noSuchVoice
  /-- Raised by VOICE_RENDER, and by the fetch of a selector, where ALG[v] is in 5..7: "cannot occur here" (R141,
  R147). Safe. -/
  | illegalSelector
  /-- Raised by OP_RENDER where the table index is outside 0..L-1, so only where L is 0 (R61). Safe. -/
  | outsideTable
  /-- Raised by PULL, and by OP_RENDER, where COMMIT_MODE, or IDX_TIE, holds a value that R9 does not list: "FMD never
  renders with it" (R186). Safe. -/
  | unlistedSwitch
  /-- Raised by OP_RENDER where the scaled sample is no finite number, so that trunc (R12) has no value; R131 says that
  it cannot happen. Safe. -/
  | sampleNotFinite
  deriving DecidableEq, Repr

/-- Why a step has no meaning for an instruction. -/
inductive Refusal where
  /-- An instruction without a meaning. No arm of `exec` answers it. Safe. -/
  | notModelled (mnemonic : String)
  /-- Raised by ALG0 to ALG4 where no voice is being rendered: a routing datapath is no command, and the spec gives it an
  effect only inside VOICE_RENDER (R141). Safe (log 8). -/
  | noVoiceInCombiner
  deriving DecidableEq, Repr

/-- The operator (v,k): its control registers (R32) and its six state elements (R26 to R31). -/
structure Operator where
  cfg : OpConfig
  phase : F64
  pitch : F64
  noteVol : F64
  reset : Bool
  envN : BitVec 34
  envCur : F64
  deriving DecidableEq, Repr

/-- Voice v: its routing selector ALG[v] and its three operators. A voice has no state of its own (R20). -/
structure Voice where
  alg : BitVec 3
  op1 : Operator
  op2 : Operator
  op3 : Operator
  deriving DecidableEq, Repr

/-- Before which micro-step of the PULL in progress the RESET, PITCH and NOTE_VOL writes of one operator land (R71). -/
structure OpLanding where
  reset : Nat
  pitch : Nat
  noteVol : Nat
  deriving DecidableEq, Repr

/-- The landing times of a NOTE_ON's nine field writes (R71). -/
structure NoteLanding where
  op1 : OpLanding
  op2 : OpLanding
  op3 : OpLanding
  deriving DecidableEq, Repr

/-- A NOTE_ON that hit while a PULL is in progress: its lookup and its RR update are done, and its nine writes to
`voice` land at the times given (R71). -/
structure Overlap where
  voice : Nat
  freq : F64
  vol : F64
  landing : NoteLanding
  deriving DecidableEq, Repr

/-- What the host does next (R197, log 5). -/
inductive HostEvent where
  /-- It issues a command word after the previous command has completed (R70). -/
  | command (w : Word)
  /-- It issues the word while the PULL before it is in progress, and the field writes land as given (R71, log 6). Where no
  PULL is in progress that a NOTE_ON may overlap, it is an ordinary command. -/
  | during (w : Word) (landing : NoteLanding)
  /-- It asserts reset with this configuration record (R210). -/
  | reset (c : Config)
  deriving DecidableEq, Repr

/-- The combiner's transient values while one voice is being rendered (R37, R141): the voice, op3's buffer, the
NOTE_ONs that overlap, and the routing's result once it is there. -/
structure Combiner where
  voice : Nat
  out3 : Buffer
  overlaps : List Overlap
  vout : Option Buffer
  deriving DecidableEq, Repr

/-- Everything the spec gives the machine (R20, R32), the two ports, the transients, and the count of free values. -/
structure State where
  /-- The control registers that belong to no voice (R8, R9). -/
  shared : GlobalConfig
  /-- The voices of the record, in voice order: P of them while FAULT is 0 (R8, log 12). -/
  voices : List Voice
  /-- PRIMED (R23). -/
  primed : Bool
  /-- FAULT (R24). -/
  fault : BitVec 4
  /-- RR (R25). -/
  rr : BitVec 8
  /-- The command port: what the host has still to do, in order (R70). -/
  host : List HostEvent
  /-- The output port: what the last command returned, `none` for nothing (R69, R91). -/
  response : Option (List Sample)
  /-- The transients of a voice being rendered; `none` between commands (R37). -/
  combiner : Option Combiner
  /-- The MODEL's own: how many free values a NONFINITE fault has drawn so far (log 3). -/
  draws : Nat
  deriving DecidableEq, Repr

/-- POLYPHONY as a count of voices (R8). -/
def State.polyphony (s : State) : Nat := s.shared.polyphony.toNat

/-- R183: the 4-bit status output equals FAULT at all times. -/
def State.faultOutput (s : State) : BitVec 4 := s.fault

/-- The control registers of a voice, read back. -/
def Voice.config (v : Voice) : VoiceConfig :=
  { alg := v.alg, op1 := v.op1.cfg, op2 := v.op2.cfg, op3 := v.op3.cfg }

/-- The configuration record the machine holds (R7). -/
def State.config (s : State) : Config := { shared := s.shared, voices := s.voices.map Voice.config }

/-- R210: an operator right after reset. -/
def Operator.ofConfig (g : GlobalConfig) (o : OpConfig) : Operator :=
  { cfg := o, phase := F64.posZero, pitch := g.initPitch, noteVol := g.initNoteVol, reset := false,
    envN := 0#34, envCur := F64.posZero }

/-- R210: a voice right after reset. -/
def Voice.ofConfig (g : GlobalConfig) (v : VoiceConfig) : Voice :=
  { alg := v.alg, op1 := Operator.ofConfig g v.op1, op2 := Operator.ofConfig g v.op2,
    op3 := Operator.ofConfig g v.op3 }

/-- R210: the machine right after a reset that loads c. "When validation fails, the state is still set as shown". -/
def State.resetWith (c : Config) : State :=
  { shared := c.shared, voices := c.voices.map (Voice.ofConfig c.shared), primed := false,
    fault := faultBits (validate c), rr := 0#8, host := [], response := none, combiner := none, draws := 0 }

/-- The machine right after reset with the record `Config.initial` (log 1), before the host issues anything (R211). -/
def State.reset : State := State.resetWith Config.initial

end Sys2Proof.Machine
end

