-- ==== Sys2Proof/Machine/Ops.lean ====
section
/-! DEFINITION. The shared operations over State: raising a fault (the exception entry, 60_exceptions.md R181) and the
reset that alone leaves it (R191, R210), the responses, the access to operators, and the field writes. -/

namespace Sys2Proof.Machine

/-- R181: `raise Fault(code)`. The code is recorded only while FAULT is 0; the command ends and returns nothing. It saves
no other state and transfers control to nothing (R190). -/
def raiseFault (code : FaultCode) (s : State) : State :=
  { s with fault := if s.fault = 0#4 then faultBits code else s.fault, response := none, combiner := none }

/-- R191, R210: reset, the only way out of a fault. It loads the record c; only the events the host has still to issue and
the model's count of free values stay. -/
def applyReset (c : Config) (s : State) : State :=
  { State.resetWith c with host := s.host, draws := s.draws }

/-- R182: a command that a faulted FMD takes and ignores, and any command that returns nothing (R91). -/
def returnNothing (s : State) : State := { s with response := none }

/-- R69: a command returns a buffer on the output port. -/
def returnBuffer (b : Buffer) (s : State) : State := { s with response := some (toSamples b) }

/-- The outcome of rendering: a result, the NONFINITE fault at an operator (R122), or a state the spec rules out. -/
inductive Rendered (α : Type) where
  | done (a : α)
  | nonfinite (r : OpRef)
  | stuck (f : Fault)
  deriving DecidableEq, Repr

/-- Go on with the result; both stops end the rendering (R181). -/
def Rendered.andThen {α β : Type} (x : Rendered α) (f : α → Rendered β) : Rendered β :=
  match x with
  | .done a => f a
  | .nonfinite r => .nonfinite r
  | .stuck e => .stuck e

/-- The place of an operator in the pull order op3, op2, op1 (R148). -/
def pullIndex : OpIx → Nat
  | .op3 => 0
  | .op2 => 1
  | .op1 => 2

/-- The operator (v,k) of a voice. -/
def voiceOp (v : Voice) : OpIx → Operator
  | .op1 => v.op1
  | .op2 => v.op2
  | .op3 => v.op3

/-- The voice with the function applied to each of its operators. -/
def mapOps (f : OpIx → Operator → Operator) (v : Voice) : Voice :=
  { v with op1 := f .op1 v.op1, op2 := f .op2 v.op2, op3 := f .op3 v.op3 }

/-- R130: OP_NOTE_ON. PHASE, ENV_N and ENV_CUR are not written. -/
def opNoteOn (p vol : F64) (o : Operator) : Operator :=
  { o with reset := true, pitch := p, noteVol := vol }

/-- R149: VOICE_NOTE_ON. Each operator's pitch is scaled by its own detune ratio; the level passes unchanged. -/
def voiceNoteOn (p vol : F64) (v : Voice) : Voice :=
  mapOps (fun _ o => opNoteOn (fmul p o.cfg.rate) vol o) v

/-- R25, R164: (RR + 1) mod P. -/
def nextRR (p : Nat) (rr : BitVec 8) : BitVec 8 := BitVec.ofNat 8 ((rr.toNat + 1) % p)

/-- All nine writes of a NOTE_ON, to voice v. -/
def landNote (v : Nat) (p vol : F64) (vs : List Voice) : List Voice :=
  vs.modify v (voiceNoteOn p vol)

/-- "Every write takes effect no later than the end of the PULL in progress" (R71): the writes of every overlapping
NOTE_ON, in command order. -/
def landOverlaps (ovs : List Overlap) (vs : List Voice) : List Voice :=
  ovs.foldl (fun acc o => landNote o.voice o.freq o.vol acc) vs

/-- The PULL that ended at operator `stop` had reached operator r: voices in increasing v, operators in the order of
R148 (R189). -/
def reached (stop r : OpRef) : Bool :=
  decide (r.voice < stop.voice) ||
    (decide (r.voice = stop.voice) && decide (pullIndex r.op ≤ pullIndex stop.op))

/-- R181: what a NONFINITE fault leaves of a reached operator. "The PHASE, ENV_N, ENV_CUR and RESET values ... are then
unspecified": free values (log 3). PITCH and NOTE_VOL are not among them. -/
def abandonOp (draw : Nat) (r : OpRef) (o : Operator) : Operator :=
  { o with phase := Config.unspecifiedPhase draw r, envN := Config.unspecifiedEnvN draw r,
           envCur := Config.unspecifiedEnvCur draw r, reset := Config.unspecifiedReset draw r }

/-- R181 over the voices from number v on. -/
def abandonVoices (draw : Nat) (stop : OpRef) (v : Nat) : List Voice → List Voice
  | [] => []
  | x :: xs =>
    mapOps (fun k o => if reached stop ⟨v, k⟩ then abandonOp draw ⟨v, k⟩ o else o) x
      :: abandonVoices draw stop (v + 1) xs

/-- R181, R187: the PULL that finds a position that is not finite at operator `stop`. Every overlapping write has landed
(R71, log 15), the reached operators hold free values, and FAULT records NONFINITE. -/
def raiseNonfinite (stop : OpRef) (ovs : List Overlap) (s : State) : State :=
  raiseFault .nonfinite
    { s with voices := abandonVoices s.draws stop 0 (landOverlaps ovs s.voices), draws := s.draws + 1 }

end Sys2Proof.Machine
end

