-- ==== Sys2Proof/Machine/Operands.lean ====
section
/-! DEFINITION. The operand forms: the frame count, the note lookup and the level of a velocity, and the wave-table
read (30_encoding.md R85, 20_memory.md R60 to R62, 44_mixer.md R164). -/

namespace Sys2Proof.Machine

/-- R60: `MemRead(WT, i, 1)` returns WT[i] for 0 ≤ i < L. -/
def memRead (g : GlobalConfig) (i : Int) : Option Int := if 0 ≤ i then g.wt[i.toNat]? else none

/-- R62: `NoteLookup(n)` returns the entry of key n; a key without an entry holds `none`. -/
def noteLookup (g : GlobalConfig) (n : Nat) : Option F64 := (g.noteFreq[n]?).join

/-- R164: vol = fdiv(f64(vel), 127.0). -/
def velocityLevel (vel : Nat) : F64 := fdiv (f64 vel) F64.oneTwentySeven

/-- R101, R184: "PULL with F = 0, or with F > MAX_FRAMES, raises BAD_FRAMES". -/
def framesLegal (g : GlobalConfig) (frames : Nat) : Bool := 
  decide (1 ≤ frames) && decide ((frames : Int) ≤ g.maxFrames)

end Sys2Proof.Machine
end

