-- ==== Sys2Proof/Machine/Envelope.lean ====
section
/-! DEFINITION. The AD envelope generator of an operator (41_envelope.md). -/

namespace Sys2Proof.Machine

/-- A counter value as the signed 34-bit ENV_N holds it (R30). -/
def toEnvN (n : Int) : BitVec 34 := BitVec.ofInt 34 n

/-- R110 on the attack ramp: (a == 0) ? 1.0 : fdiv(f64(n), f64(a)). -/
def attackLevel (a n : Int) : F64 := if a = 0 then F64.one else fdiv (f64 n) (f64 a)

/-- R110 on the decay ramp: fsub(1.0, fdiv(f64(n - a), f64(d))). -/
def decayLevel (a d n : Int) : F64 := fsub F64.one (fdiv (f64 (n - a)) (f64 d))

/-- The three writing branches of R110: ENV_N <- n, ENV_CUR <- val, return val. -/
def envWrite (n : Int) (val : F64) (o : Operator) : F64 × Operator :=
  (val, { o with envN := toEnvN n, envCur := val })

/-- R110: ENV_ADVANCE, one envelope step with the gain it returns. The terminal step writes nothing. -/
def envAdvance (o : Operator) : F64 × Operator :=
  let n := o.envN.toInt
  let a := o.cfg.attack
  let d := o.cfg.decay
  if n = -1 then (F64.posZero, o)
  else if n ≤ a then envWrite (n + 1) (attackLevel a n) o
  else if 0 < d ∧ n - a ≤ d then envWrite (n + 1) (decayLevel a d n) o
  else envWrite (-1) F64.posZero o

/-- R111: ENV_RETRIGGER, ENV_N <- 0. ENV_CUR is not written. -/
def envRetrigger (o : Operator) : Operator := { o with envN := toEnvN 0 }

end Sys2Proof.Machine
end

