-- ==== Sys2Proof/Machine/Oscillator.lean ====
section
/-! DEFINITION. The operator: phase accumulator, table lookup, gain, end of buffer (42_operator.md), and the field
writes that land between its micro-steps (20_memory.md R71). -/

namespace Sys2Proof.Machine

/-- R121: offset = fdiv(f64(m[i] * L), 32767.0). -/
def phaseOffset (g : GlobalConfig) (m : Int) : F64 := fdiv (f64 (m * g.wtLen)) F64.fullScale

/-- R122: pos = fadd(PHASE, offset), with PHASE before this sample's increment. -/
def readPosition (g : GlobalConfig) (m : Int) (o : Operator) : F64 := fadd o.phase (phaseOffset g m)

/-- R123: the table sample at floorMod(roundIdx(pos), L). -/
def tableSample (g : GlobalConfig) (idx : Int) : Option Int := memRead g (floorMod idx g.wtLen)

/-- R124: g = fmul(fmul(NOTE_VOL, VOLUME), e). -/
def gain (o : Operator) (e : F64) : F64 := fmul (fmul o.noteVol o.cfg.volume) e

/-- R125: inc = fdiv(fmul(f64(L), PITCH), f64(SR)). -/
def phaseInc (g : GlobalConfig) (o : Operator) : F64 :=
  fdiv (fmul (f64 g.wtLen) o.pitch) (f64 g.sampleRate)

/-- R125: PHASE <- fadd(PHASE, inc); never reduced modulo L. -/
def advancePhase (g : GlobalConfig) (o : Operator) : Operator :=
  { o with phase := fadd o.phase (phaseInc g o) }

/-- R121 to R125: one sample of operator r with modulator m. Under an IDX_TIE that R9 does not list it stops (log 9). -/
def sampleStep (g : GlobalConfig) (r : OpRef) (m : Int) (o : Operator) : Rendered (Int × Operator) :=
  match roundIdx g.idxTie (readPosition g m o) with
  | none => .nonfinite r
  | some idx =>
    if g.idxTie.isListed = false then .stuck .unlistedSwitch
    else match tableSample g idx with
    | none => .stuck .outsideTable
    | some w =>
      let env := envAdvance o
      match trunc (fmul (f64 w) (gain o env.1)) with
      | none => .stuck .sampleNotFinite
      | some y => .done (y, advancePhase g env.2)

/-- R127: END_OF_BUFFER, the deferred retrigger. -/
def endOfBuffer (o : Operator) : Operator :=
  if o.reset then envRetrigger { o with reset := false } else o

/-- The writes to one operator's RESET, PITCH and NOTE_VOL that have been issued and not yet landed: one queue per field,
oldest first, each entry with its landing time. "Two writes to the same field take effect in command order" (R71). -/
structure PendingWrites where
  resets : List Nat
  pitches : List (Nat × F64)
  noteVols : List (Nat × F64)
  deriving DecidableEq, Repr

/-- The landing times a NOTE_ON has for operator k. -/
def opLanding (l : NoteLanding) : OpIx → OpLanding
  | .op1 => l.op1
  | .op2 => l.op2
  | .op3 => l.op3

/-- The pending writes of the overlapping NOTE_ONs to operator r, whose detune ratio is `rate` (R71, R130, R149). -/
def pendingFor (ovs : List Overlap) (r : OpRef) (rate : F64) : PendingWrites :=
  let mine := ovs.filter fun o => o.voice == r.voice
  { resets := mine.map fun o => (opLanding o.landing r.op).reset
    pitches := mine.map fun o => ((opLanding o.landing r.op).pitch, fmul o.freq rate)
    noteVols := mine.map fun o => ((opLanding o.landing r.op).noteVol, o.vol) }

/-- The writes of one queue that land at or before micro-step t, applied to the field; the others stay queued. -/
def landField {α : Type} (t : Nat) (x : α) : List (Nat × α) → α × List (Nat × α)
  | [] => (x, [])
  | w :: ws => if w.1 ≤ t then landField t w.2 ws else (x, w :: ws)

/-- R71: the field writes that take effect before micro-step t. -/
def landDue (t : Nat) (p : PendingWrites) (o : Operator) : Operator × PendingWrites :=
  let r := landField t o.reset (p.resets.map fun at' => (at', true))
  let f := landField t o.pitch p.pitches
  let v := landField t o.noteVol p.noteVols
  ({ o with reset := r.1, pitch := f.1, noteVol := v.1 },
   { resets := r.2.map Prod.fst, pitches := f.2, noteVols := v.2 })

/-- The field after every write of its queue. -/
def lastWrite {α : Type} (x : α) (ws : List (Nat × α)) : α := ws.foldl (fun _ w => w.2) x

/-- R71: at the end of the PULL the remaining writes take effect. -/
def landAll (p : PendingWrites) (o : Operator) : Operator :=
  { o with reset := o.reset || !p.resets.isEmpty, pitch := lastWrite o.pitch p.pitches,
           noteVol := lastWrite o.noteVol p.noteVols }

/-- R126 from micro-step t on, with the modulator samples still to come: one micro-step a sample, then END_OF_BUFFER.
The writes that land between micro-steps are those of R71; with none pending this is R126's loop. -/
def renderSamples (g : GlobalConfig) (r : OpRef) :
    PendingWrites → Nat → Buffer → Operator → Rendered (Buffer × Operator)
  | p, t, [], o =>
    let l := landDue t p o
    .done ([], landAll l.2 (endOfBuffer l.1))
  | p, t, m :: ms, o =>
    let l := landDue t p o
    (sampleStep g r m l.1).andThen fun a =>
      (renderSamples g r l.2 (t + 1) ms a.2).andThen fun b => .done (a.1 :: b.1, b.2)

/-- What is fixed while one PULL renders: the shared control registers and the NOTE_ONs that overlap it. -/
structure RenderContext where
  shared : GlobalConfig
  overlaps : List Overlap
  deriving DecidableEq, Repr

/-- The number of the first micro-step of operator r in a PULL of F frames: the operators before it in render order
(R71, R148) have F + 1 micro-steps each. -/
def firstMicroStep (frames : Nat) (r : OpRef) : Nat := (3 * r.voice + pullIndex r.op) * (frames + 1)

/-- R126: OP_RENDER(v,k,m,F), with F the length of m (R102). -/
def opRender (c : RenderContext) (r : OpRef) (m : Buffer) (o : Operator) : Rendered (Buffer × Operator) :=
  renderSamples c.shared r (pendingFor c.overlaps r o.cfg.rate) (firstMicroStep m.length r) m o

end Sys2Proof.Machine
end

