-- ==== Sys2Proof/Machine/Combine.lean ====
section
/-! DEFINITION. The voice and the operator-output combiner (43_voice_routing.md), and the mixer (44_mixer.md R161). -/

namespace Sys2Proof.Machine

/-- R140: the exact sum of two buffers, element by element, clamped once. -/
def satSum2 (g : GlobalConfig) (a b : Buffer) : Buffer := List.zipWith (fun x y => sat16 g.satMin (x + y)) a b

/-- R140, R146: the exact sum of three buffers, clamped once and not pairwise. -/
def satSum3 (g : GlobalConfig) (a b c : Buffer) : Buffer :=
  List.zipWith (fun xy z => sat16 g.satMin (xy + z)) (List.zipWith (· + ·) a b) c

/-- A routing datapath: voice number, op3's buffer and the voice, giving the voice's output and the voice after. -/
abbrev Routing := RenderContext → Nat → Buffer → Voice → Rendered (Buffer × Voice)

/-- Operators 2 and 1 of a voice rendered in the order of R148: op2 with modulator m2, then op1 with the modulator that m1
makes of op2's output, then the output that mix makes of out1 and out2. -/
def renderCarriers (c : RenderContext) (v : Nat) (m2 : Buffer) (m1 : Buffer → Buffer)
    (vout : Buffer → Buffer → Buffer) (x : Voice) : Rendered (Buffer × Voice) :=
  (opRender c ⟨v, .op2⟩ m2 x.op2).andThen fun a2 =>
    (opRender c ⟨v, .op1⟩ (m1 a2.1) x.op1).andThen fun a1 =>
      .done (vout a1.1 a2.1, { x with op1 := a1.2, op2 := a2.2 })

/-- R142: ALG0, op3 -> op2 -> op1, output op1. -/
def routeAlg0 : Routing := fun c v out3 x =>
  renderCarriers c v out3 (fun out2 => out2) (fun out1 _ => out1) x

/-- R143: ALG1, sat16(out3 + out2) -> op1, output op1. -/
def routeAlg1 : Routing := fun c v out3 x =>
  renderCarriers c v (silence out3.length) (fun out2 => satSum2 c.shared out3 out2) (fun out1 _ => out1) x

/-- R144: ALG2, op3 modulates op2 and op1, output sat16(out1 + out2). -/
def routeAlg2 : Routing := fun c v out3 x =>
  renderCarriers c v out3 (fun _ => out3) (fun out1 out2 => satSum2 c.shared out1 out2) x

/-- R145: ALG3, op3 modulates op2, op1 is unmodulated, output sat16(out1 + out2). -/
def routeAlg3 : Routing := fun c v out3 x =>
  renderCarriers c v out3 (fun _ => silence out3.length) (fun out1 out2 => satSum2 c.shared out1 out2) x

/-- R146: ALG4, no cross-modulation, output sat16(out1 + out2 + out3). -/
def routeAlg4 : Routing := fun c v out3 x =>
  renderCarriers c v (silence out3.length) (fun _ => silence out3.length)
    (fun out1 out2 => satSum3 c.shared out1 out2 out3) x

/-- R141: `case ALG[v]`. -/
def routeSelected : Routing := fun c v out3 x =>
  match decodeSelector x.alg with
  | .ok .alg0 => routeAlg0 c v out3 x
  | .ok .alg1 => routeAlg1 c v out3 x
  | .ok .alg2 => routeAlg2 c v out3 x
  | .ok .alg3 => routeAlg3 c v out3 x
  | .ok .alg4 => routeAlg4 c v out3 x
  | _ => .stuck .illegalSelector

/-- R141: VOICE_RENDER(v,F): op3 first, always unmodulated, then the selected routing. -/
def voiceRender (c : RenderContext) (v frames : Nat) (x : Voice) : Rendered (Buffer × Voice) :=
  (opRender c ⟨v, .op3⟩ (silence frames) x.op3).andThen fun a3 =>
    routeSelected c v a3.1 { x with op3 := a3.2 }

/-- R101: the voices in increasing v, from number v on. -/
def renderVoices (c : RenderContext) (frames : Nat) : Nat → List Voice → Rendered (List Buffer × List Voice)
  | _, [] => .done ([], [])
  | v, x :: xs =>
    (voiceRender c v frames x).andThen fun a =>
      (renderVoices c frames (v + 1) xs).andThen fun b => .done (a.1 :: b.1, a.2 :: b.2)

/-- R161: the exact sum of the voice buffers, sample by sample. -/
def sumVoices (frames : Nat) (vouts : List Buffer) : Buffer :=
  vouts.foldr (List.zipWith (· + ·)) (silence frames)

/-- R161: MIX(vout, F), the sum divided by P and truncated toward zero. -/
def mix (frames : Nat) (vouts : List Buffer) : Buffer :=
  (sumVoices frames vouts).map fun s => tquot s vouts.length

end Sys2Proof.Machine
end

