-- ==== Sys2Proof/Machine/Commands.lean ====
section
/-! DEFINITION. The host commands PRIME, PULL and NOTE_ON (40_pull_protocol.md, 44_mixer.md), and an illegal word. -/

namespace Sys2Proof.Machine

/-- R100: PRIME, the handshake. -/
def execPrime (s : State) : Host.Outcome State Fault Refusal :=
  if s.fault ≠ 0#4 then .next (returnNothing s)
  else if s.primed then .next (raiseFault .primeTwice s)
  else .next (returnBuffer [] { s with primed := true })

/-- R164: NOTE_ON. A miss changes no state (R165); the voice in rotation takes a hit whether or not it is sounding
(R166). -/
def execNoteOn (note vel : Nat) (s : State) : Host.Outcome State Fault Refusal :=
  if s.fault ≠ 0#4 then .next (returnNothing s)
  else match noteLookup s.shared note with
    | none => .next (returnNothing s)
    | some f =>
      if s.rr.toNat < s.polyphony ∧ s.rr.toNat < s.voices.length then
        .next (returnNothing
          { s with voices := landNote s.rr.toNat f (velocityLevel vel) s.voices,
                   rr := nextRR s.polyphony s.rr })
      else .fault .noSuchVoice

/-- R71: the NOTE_ONs at the head of the host's events that it issues while the PULL is in progress. Each performs its
lookup and its RR update at once. The result: the hits with their landing times, RR after them, the events left. -/
def collectOverlaps (g : GlobalConfig) (p : Nat) :
    BitVec 8 → List HostEvent → List Overlap × BitVec 8 × List HostEvent
  | rr, [] => ([], rr, [])
  | rr, ev :: evs =>
    match ev with
    | .during w landing =>
      match decode w with
      | .ok (.noteOn note vel) =>
        match noteLookup g note with
        | none => collectOverlaps g p rr evs
        | some f =>
          let r := collectOverlaps g p (nextRR p rr) evs
          ({ voice := rr.toNat, freq := f, vol := velocityLevel vel, landing := landing } :: r.1, r.2)
      | _ => ([], rr, ev :: evs)
    | _ => ([], rr, ev :: evs)

/-- The NOTE_ONs that overlap a PULL: none in BUFFER_ATOMIC (R70), the host's in FIELD_RACY (R71). Under a COMMIT_MODE that
R9 does not list no PULL renders (log 9), so that none overlaps. -/
def overlapsOf (s : State) : List Overlap × BitVec 8 × List HostEvent :=
  match s.shared.commitMode with
  | .bufferAtomic => ([], s.rr, s.host)
  | .unlisted _ => ([], s.rr, s.host)
  | .fieldRacy => collectOverlaps s.shared s.polyphony s.rr s.host

/-- R101 after its checks: render every voice and mix. The overlapping NOTE_ONs have left the host's events and moved
RR. -/
def renderPull (frames : Nat) (s : State) : Host.Outcome State Fault Refusal :=
  let ov := overlapsOf s
  let s1 : State := { s with rr := ov.2.1, host := ov.2.2 }
  if s.shared.commitMode.isListed = false then .fault .unlistedSwitch
  else if s.voices = [] ∨ s.polyphony ≠ s.voices.length ∨ ∃ o ∈ ov.1, s.polyphony ≤ o.voice then .fault .noSuchVoice
  else match renderVoices { shared := s.shared, overlaps := ov.1 } frames 0 s.voices with
    | .done a => .next (returnBuffer (mix frames a.1) { s1 with voices := a.2 })
    | .nonfinite r => .next (raiseNonfinite r ov.1 s1)
    | .stuck e => .fault e

/-- R101: PULL F, with its checks in the order of R189. -/
def execPull (frames : Nat) (s : State) : Host.Outcome State Fault Refusal :=
  if s.fault ≠ 0#4 then .next (returnNothing s)
  else if !s.primed then .next (raiseFault .pullBeforePrime s)
  else if !framesLegal s.shared frames then .next (raiseFault .badFrames s)
  else renderPull frames s

/-- R185: a word that decodes to ILLEGAL raises BAD_ENCODING when FMD takes it, but a faulted FMD ignores it (R182). -/
def takeIllegal (s : State) : State :=
  if s.fault ≠ 0#4 then returnNothing s else raiseFault .badEncoding s

end Sys2Proof.Machine
end

