-- ==== Sys2Proof/Machine/Routes.lean ====
section
/-! DEFINITION. ALG0 to ALG4 as instructions of their own: the routing of the voice that waits in the combiner
(43_voice_routing.md R142 to R146, log 8). -/

namespace Sys2Proof.Machine

/-- One routing of the voice in the combiner: operators 2 and 1 of that voice are rendered and its output is there for
VOICE_RENDER (R141). "A faulted FMD is quiescent" (R182): while FAULT is not 0 nothing is rendered and nothing returned,
and the voice leaves the combiner, since no command is in progress. The spec has no such voice: DESIGN CHOICE (log 8),
safe. -/
def routeWith (route : Routing) (s : State) : Host.Outcome State Fault Refusal :=
  match s.combiner with
  | none => .refused .noVoiceInCombiner
  | some c =>
    if s.fault ≠ 0#4 then .next (returnNothing { s with combiner := none })
    else match s.voices[c.voice]? with
    | none => .fault .noSuchVoice
    | some x =>
      match route { shared := s.shared, overlaps := c.overlaps } c.voice c.out3 x with
      | .done a =>
        .next { s with voices := s.voices.set c.voice a.2, combiner := some { c with vout := some a.1 } }
      | .nonfinite r => .next (raiseNonfinite r c.overlaps s)
      | .stuck e => .fault e

/-- R142. -/
def execAlg0 (s : State) : Host.Outcome State Fault Refusal := routeWith routeAlg0 s

/-- R143. -/
def execAlg1 (s : State) : Host.Outcome State Fault Refusal := routeWith routeAlg1 s

/-- R144. -/
def execAlg2 (s : State) : Host.Outcome State Fault Refusal := routeWith routeAlg2 s

/-- R145. -/
def execAlg3 (s : State) : Host.Outcome State Fault Refusal := routeWith routeAlg3 s

/-- R146. -/
def execAlg4 (s : State) : Host.Outcome State Fault Refusal := routeWith routeAlg4 s

end Sys2Proof.Machine
end

