-- ==== Sys2Proof/Machine/Dispatch.lean ====
section
/-! DEFINITION. One arm per instruction: each calls its meaning. -/

namespace Sys2Proof.Machine

-- The host commands (30_encoding.md R81) and the routing datapaths (R88).
def exec (i : Instr) (s : State) : Host.Outcome State Fault Refusal :=
  match i with
  | .prime => Sys2Proof.Machine.execPrime s
  | .pull frames => Sys2Proof.Machine.execPull frames s
  | .noteOn note vel => Sys2Proof.Machine.execNoteOn note vel s
  | .alg0 => Sys2Proof.Machine.execAlg0 s
  | .alg1 => Sys2Proof.Machine.execAlg1 s
  | .alg2 => Sys2Proof.Machine.execAlg2 s
  | .alg3 => Sys2Proof.Machine.execAlg3 s
  | .alg4 => Sys2Proof.Machine.execAlg4 s

end Sys2Proof.Machine
end

