-- ==== Sys2Proof/Machine/Fetch.lean ====
section
/-! DEFINITION. Where the next instruction comes from: the combiner, when a voice waits there for its routing, and else
the command port (30_encoding.md R80, R88; 43_voice_routing.md R141). -/

namespace Sys2Proof.Machine

/-- What a step finds to do, with the state in which it does it. -/
inductive Fetched where
  /-- Nothing has been issued: FMD waits (R211). -/
  | idle
  /-- An instruction to run. -/
  | instr (i : Instr) (s : State)
  /-- A word that decodes to ILLEGAL (R92). -/
  | illegalWord (s : State)
  /-- A voice in the combiner whose ALG selects no routing (R147). -/
  | illegalSelector
  /-- A voice in the combiner that does not exist. -/
  | noVoice
  /-- Reset (R210). -/
  | reset (c : Config) (s : State)
  deriving DecidableEq, Repr

/-- The host's first event taken from the port. No transient survives into the command (R37). -/
def takeEvent (rest : List HostEvent) (s : State) : State := { s with host := rest, combiner := none }

/-- A command word taken and decoded (R92). -/
def fetchWord (w : Word) (rest : List HostEvent) (s : State) : Fetched :=
  match decode w with
  | .ok i => .instr i (takeEvent rest s)
  | .error _ => .illegalWord (takeEvent rest s)

/-- From the command port: one event at a time, in the order the host issues them (R70). -/
def fetchEvent (s : State) : Fetched :=
  match s.host with
  | [] => .idle
  | .command w :: rest => fetchWord w rest s
  | .during w _ :: rest => fetchWord w rest s
  | .reset c :: rest => .reset c (takeEvent rest s)

/-- A voice waits in the combiner while its routing has not run. A faulted FMD is quiescent, so none waits while FAULT is
not 0 (R182; DESIGN CHOICE, log 8). -/
def voiceWaiting (s : State) : Option Combiner :=
  match s.combiner with
  | some c => if c.vout = none ∧ s.fault = 0#4 then some c else none
  | none => none

/-- The next instruction: the routing that ALG[v] selects for a waiting voice, else the host's. -/
def fetch (s : State) : Fetched :=
  match voiceWaiting s with
  | some c =>
    match s.voices[c.voice]? with
    | none => .noVoice
    | some x =>
      match decodeSelector x.alg with
      | .ok i => .instr i s
      | .error _ => .illegalSelector
  | none => fetchEvent s

/-- The state in which the word w is the next thing the host issues. -/
def placeCommand (w : Word) (s : State) : State :=
  { s with host := .command w :: s.host, combiner := none }

/-- The state in which voice 0 waits in the combiner with ALG[0] = alg. Its op3 has rendered one sample of silence. -/
def placeSelector (alg : BitVec 3) (s : State) : State :=
  { s with voices := s.voices.modify 0 (fun x => { x with alg := alg })
           combiner := some { voice := 0, out3 := silence 1, overlaps := [], vout := none } }

/-- The instruction whose bits are w, placed where `fetch` takes it: the rows of one byte are values of the selector
field, the others command words (log 7). -/
def placeTableWord (nbits w : Nat) (s : State) : State :=
  if nbits ≤ 8 then placeSelector (BitVec.ofNat 3 w) s else placeCommand (BitVec.ofNat 32 w) s

end Sys2Proof.Machine
end

