-- ==== Sys2Proof/Machine/Step.lean ====
section
/-! DEFINITION. One step: fetch, then run what was fetched. -/

namespace Sys2Proof.Machine

/-- One step. A step completes one command (R70), one reset (R210), or the routing of a voice that waits in the
combiner; with nothing issued, FMD waits (R211). -/
def step (s : State) : Host.Outcome State Fault Refusal :=
  match fetch s with
  | .idle => .next s
  | .instr i s' => exec i s'
  | .illegalWord s' => .next (takeIllegal s')
  | .illegalSelector => .fault .illegalSelector
  | .noVoice => .fault .noSuchVoice
  | .reset c s' => .next (applyReset c s')

/-- The state whose next step fetches and runs the instruction with bits w (log 7). -/
def State.withFetchWord (s : State) (nbits w : Nat) : State := placeTableWord nbits w s

end Sys2Proof.Machine
end

