-- ==== Sys2Proof/Machine/Assembler.lean ====
section
/-! DEFINITION. The assembler's line syntax (30_encoding.md R89): one command per line, upper-case mnemonics, operands
decimal or 0x-prefixed hexadecimal, and a semicolon that starts a comment. -/

namespace Sys2Proof.Machine

/-- Why a line does not assemble. -/
inductive AsmError where
  /-- The line is no command of the syntax. -/
  | notACommand
  /-- An operand is no number. -/
  | notANumber
  /-- "An assembler refuses an operand that does not fit its field" (R89). -/
  | operandTooLarge
  deriving DecidableEq, Repr

/-- The line up to the comment. -/
def stripComment : List Char → List Char
  | [] => []
  | c :: cs => if c = ';' then [] else c :: stripComment cs

/-- The words of a line: runs of characters other than blanks, and each comma by itself. -/
def tokens : List Char → List (List Char)
  | [] => []
  | c :: cs =>
    let rest := tokens cs
    if c = ' ' ∨ c = '\t' then [] :: rest
    else if c = ',' then [] :: [','] :: [] :: rest
    else match rest with
      | [] => [[c]]
      | t :: ts => if t = [','] then [c] :: rest else (c :: t) :: ts

/-- The value of a digit in base 10 or 16. -/
def digitValue (c : Char) : Option Nat :=
  if '0' ≤ c ∧ c ≤ '9' then some (c.toNat - '0'.toNat)
  else if 'a' ≤ c ∧ c ≤ 'f' then some (c.toNat - 'a'.toNat + 10)
  else if 'A' ≤ c ∧ c ≤ 'F' then some (c.toNat - 'A'.toNat + 10)
  else none

/-- A run of digits after the value read so far. -/
def digits (base : Nat) : Nat → List Char → Option Nat
  | acc, [] => some acc
  | acc, c :: cs =>
    match digitValue c with
    | some d => if d < base then digits base (base * acc + d) cs else none
    | none => none

/-- An operand: decimal, or hexadecimal after 0x. -/
def number : List Char → Option Nat
  | [] => none
  | '0' :: 'x' :: c :: cs => digits 16 0 (c :: cs)
  | c :: cs => digits 10 0 (c :: cs)

/-- The instruction that the words of a line name; `none` for an empty line. -/
def parseTokens : List (List Char) → Except AsmError (Option Instr)
  | [] => .ok none
  | [['P', 'R', 'I', 'M', 'E']] => .ok (some .prime)
  | [['P', 'U', 'L', 'L'], n] =>
    match number n with
    | some f => .ok (some (.pull f))
    | none => .error .notANumber
  | [['N', 'O', 'T', 'E', '_', 'O', 'N'], n, [','], v] =>
    match number n, number v with
    | some note, some vel => .ok (some (.noteOn note vel))
    | _, _ => .error .notANumber
  | _ => .error .notACommand

/-- R89: the word of one line; `none` for a line without a command. -/
def assembleLine (line : List Char) : Except AsmError (Option Word) :=
  match parseTokens ((tokens (stripComment line)).filter fun t => t ≠ []) with
  | .error e => .error e
  | .ok none => .ok none
  | .ok (some i) =>
    match assemble i with
    | some w => .ok (some w)
    | none => .error .operandTooLarge

/-- R89: the command words of a program, one command per line. -/
def assembleLines : List (List Char) → Except AsmError (List Word)
  | [] => .ok []
  | l :: ls =>
    match assembleLine l, assembleLines ls with
    | .error e, _ => .error e
    | _, .error e => .error e
    | .ok none, .ok ws => .ok ws
    | .ok (some w), .ok ws => .ok (w :: ws)

end Sys2Proof.Machine
end

