-- ==== Sys2Proof/Safety.lean ====
section
/-! DEFINITION. What counts as a legal configuration, a state in order and a good run, in the terms the claims use. -/

namespace Sys2Proof.Machine

/-- A legal operator configuration in the words of R8 and R186, over the rational numbers. -/
structure OpConfigOk (o : OpConfig) : Prop where
  attack : 0 ≤ o.attack ∧ o.attack ≤ 2 ^ 32 - 1
  decay : 0 ≤ o.decay ∧ o.decay ≤ 2 ^ 32 - 1
  volume : isFinite o.volume = true ∧ 0 ≤ toRat o.volume ∧ toRat o.volume ≤ 1
  rate : isFinite o.rate = true

/-- The registers that belong to no voice, in the words of R8, R9 and R186. -/
structure SharedOk (g : GlobalConfig) : Prop where
  sampleRate : 1 ≤ g.sampleRate ∧ g.sampleRate ≤ 2 ^ 32 - 1
  wtLen : 1 ≤ g.wtLen ∧ g.wtLen ≤ 2 ^ 24
  wt : ∀ w ∈ g.wt.take g.wtLen.toNat, -32768 ≤ w ∧ w ≤ 32767
  noteFreq : ∀ n f, noteLookup g n = some f → isFinite f = true ∧ 0 < toRat f
  noteKeys : ∀ n, 128 ≤ n → noteLookup g n = none
  maxFrames : 1 ≤ g.maxFrames ∧ g.maxFrames ≤ 2 ^ 24 - 1
  initPitch : isFinite g.initPitch = true
  initNoteVol : isFinite g.initNoteVol = true ∧ 0 ≤ toRat g.initNoteVol ∧ toRat g.initNoteVol ≤ 1
  commitMode : g.commitMode = .bufferAtomic ∨ g.commitMode = .fieldRacy
  satMin : g.satMin = -32768 ∨ g.satMin = -32767
  idxTie : g.idxTie = .even ∨ g.idxTie = .away

/-- R186 check 1. -/
def PolyphonyOk (c : Config) : Prop := 1 ≤ c.shared.polyphony ∧ c.shared.polyphony ≤ 255

/-- R186 check 2: every ALG[v] with v in 0..P-1 is one of 0, 1, 2, 3, 4. -/
def AlgOk (c : Config) : Prop :=
  ∀ v ∈ c.voices.take c.shared.polyphony.toNat, v.alg = 0#3 ∨ v.alg = 1#3 ∨ v.alg = 2#3 ∨ v.alg = 3#3 ∨ v.alg = 4#3

/-- R186 check 3. -/
def RangesOk (c : Config) : Prop :=
  SharedOk c.shared ∧
    ∀ v ∈ c.voices.take c.shared.polyphony.toNat, OpConfigOk v.op1 ∧ OpConfigOk v.op2 ∧ OpConfigOk v.op3

/-- The record lists the voices 0..P-1 and the entries 0..L-1 and no others, as every record of R8 does (log 12). -/
def Complete (c : Config) : Prop :=
  c.shared.polyphony = c.voices.length ∧ c.shared.wtLen = c.shared.wt.length

/-- A configuration that passes R186. -/
def Legal (c : Config) : Prop := validate c = FaultCode.none

/-- R30: "it holds -1 (terminal, silent) or a value in 0..a+d+1". -/
def EnvNOk (o : Operator) : Prop :=
  o.envN.toInt = -1 ∨ (0 ≤ o.envN.toInt ∧ o.envN.toInt ≤ o.cfg.attack + o.cfg.decay + 1)

/-- A value in [0.0, 1.0] (R28, R35). -/
def UnitLevel (x : F64) : Prop := isFinite x = true ∧ 0 ≤ toRat x ∧ toRat x ≤ 1

/-- A state in order: FAULT holds a listed code (R180), and while it is 0 the configuration is legal (R24), RR names a
voice (R25) and every envelope counter is in its range (R30). -/
structure InOrder (s : State) : Prop where
  code : s.fault.toNat ≤ 7
  legal : s.fault = 0#4 → Legal s.config
  voice : s.fault = 0#4 → s.rr.toNat < s.polyphony
  envN : s.fault = 0#4 → ∀ x ∈ s.voices, ∀ k, EnvNOk (voiceOp x k)

/-- The levels of an operator (R28, R35) and its values that are never NaN (R187). -/
structure LevelsOk (o : Operator) : Prop where
  noteVol : UnitLevel o.noteVol
  envCur : UnitLevel o.envCur
  terminal : o.envN.toInt = -1 → toRat o.envCur = 0
  pitch : isNaN o.pitch = false
  phase : isNaN o.phase = false

/-- While FAULT is 0, every operator's levels lie in [0.0, 1.0] (R35). -/
def InLevel (s : State) : Prop := s.fault = 0#4 → ∀ x ∈ s.voices, ∀ k, LevelsOk (voiceOp x k)

/-- An operator far from overflow: PHASE and PITCH are at most 2^900 in magnitude, so that no PULL of this machine can
take PHASE to an infinity (R187). -/
def FarFromOverflow (o : Operator) : Prop :=
  isFinite o.phase = true ∧ |toRat o.phase| ≤ 2 ^ 900 ∧ isFinite o.pitch = true ∧ |toRat o.pitch| ≤ 2 ^ 900

/-- Every sample of a buffer is a signed 16-bit integer (R120, R131). -/
def InSampleRange (b : Buffer) : Prop := ∀ y ∈ b, -32768 ≤ y ∧ y ≤ 32767

/-- r is the binary64 value nearest to an exact result, a tie going to the even significand, and an infinity from
2^1024 - 2^970 on: roundTiesToEven (R11). -/
def RoundedTo (exact : ℚ) (r : F64) : Prop :=
  if |exact| < 2 ^ 1024 - 2 ^ 970 then
    isFinite r = true ∧ ∀ z : F64, isFinite z = true →
      |toRat r - exact| ≤ |toRat z - exact| ∧
      (|toRat r - exact| = |toRat z - exact| → toRat z = toRat r ∨ fracField r % 2 = 0)
  else r = infinity (decide (exact < 0))

/-- PHASE after n samples at a constant pitch: n times R125's PHASE <- fadd(PHASE, fdiv(fmul(f64(L), PITCH), f64(SR))). -/
def phaseAfter (g : GlobalConfig) (o : Operator) : Nat → F64
  | 0 => o.phase
  | n + 1 => fadd (phaseAfter g o n) (fdiv (fmul (f64 g.wtLen) o.pitch) (f64 g.sampleRate))

/-- The operator after n envelope steps (R110). -/
def envAfter (o : Operator) : Nat → Operator
  | 0 => o
  | n + 1 => (envAdvance (envAfter o n)).2

/-- What one PULL of n frames leaves of an operator that no NOTE_ON overlaps (R101, R126, R127): PHASE and the envelope
advance n samples, a pending retrigger is carried out, and nothing else changes. -/
def pulledOp (g : GlobalConfig) (n : Nat) (o : Operator) : Operator :=
  { o with phase := phaseAfter g o n
           envN := if o.reset then 0#34 else (envAfter o n).envN
           envCur := (envAfter o n).envCur
           reset := false }

/-- A NOTE_ON whose nine writes all land before the first micro-step (R71). -/
def landAtStart : NoteLanding := { op1 := ⟨0, 0, 0⟩, op2 := ⟨0, 0, 0⟩, op3 := ⟨0, 0, 0⟩ }

/-- The hits among the NOTE_ONs issued during a PULL, in command order: pitch, level (R164) and landing times (R71). -/
def overlappingHits (g : GlobalConfig) (notes : List (Word × NoteLanding)) : List (F64 × F64 × NoteLanding) :=
  notes.filterMap fun p =>
    match decode p.1 with
    | .ok (.noteOn n v) => (noteLookup g n).map fun f => (f, fdiv (f64 v) F64.oneTwentySeven, p.2)
    | _ => none

/-- The instructions of a list run one after another, as far as they answer a next state. -/
def runInstrs : List Instr → State → Host.Outcome State Fault Refusal
  | [], s => .next s
  | i :: is, s =>
    match exec i s with
    | .next t => runInstrs is t
    | .fault f => .fault f
    | .refused r => .refused r

/-- R213: the end of a command after which FAULT = 0 is a good end. -/
def GoodEnd (s : State) : Prop := s.fault = 0#4

/-- The buffer that a step from s to t shows: what it returned, where it ran a PULL. PRIME's buffer of length 0 is none of
"the sequence of buffers the PULLs returned" (R213). -/
def pullShown (s t : State) : Option (List Sample) :=
  match fetch s with
  | .instr (.pull _) _ => t.response
  | _ => none

/-- R213: what a run of n steps shows, "the sequence of buffers the PULLs returned". -/
def buffersReturned : Nat → State → List (List Sample)
  | 0, _ => []
  | n + 1, s =>
    match step s with
    | .next t => (pullShown s t).toList ++ buffersReturned n t
    | _ => []

/-- Whether an outcome is a next state with a property that can be computed. -/
def answers (o : Host.Outcome State Fault Refusal) (p : State → Bool) : Bool :=
  match o with
  | .next t => p t
  | _ => false

end Sys2Proof.Machine
end

