-- ==== Sys2Proof/Certificates/Slice0/Obligations.lean ====
section
/-! DEFINITION. The statements for the provers, in the order of OBLIGATIONS.json. -/

open Sys2Proof Sys2Proof.Machine

/-! ## Encoding -/

/-- R92, by the masks of the opcode table: the decode function on every 32-bit word. -/
def Obligations.DecodeAgreesWithOpcodeTable : Prop :=
  ∀ w : Word,
    (w = 0x10000000#32 → decode w = .ok .prime) ∧
    (w &&& 0xFF000000#32 = 0x20000000#32 → decode w = .ok (.pull (w &&& 0x00FFFFFF#32).toNat)) ∧
    (w &&& 0xFFFF0080#32 = 0x30000000#32 →
      decode w = .ok (.noteOn ((w >>> 8) &&& 0xFF#32).toNat (w &&& 0x7F#32).toNat)) ∧
    (w ≠ 0x10000000#32 → w &&& 0xFF000000#32 ≠ 0x20000000#32 → w &&& 0xFFFF0080#32 ≠ 0x30000000#32 →
      ∃ e, decode w = .error e)

/-- Decoding what the encoder writes gives the instruction back, for every well-formed instruction. -/
def Obligations.DecodeOfEncodeIsIdentity : Prop :=
  ∀ i : Instr, i.wellFormed = true → decodeEncoding (encode i) = .ok i

/-- Every word that decodes is the one word the encoder writes for its instruction. -/
def Obligations.EncodeOfDecodeIsIdentity : Prop :=
  ∀ (w : Word) (i : Instr), decode w = .ok i → i.wellFormed = true ∧ encode i = .word w

/-- Words of vector V-ENC-1, written out from the encoding, and the values of the selector field with the datapaths they
select (R88); 5, 6 and 7 select none. -/
def Obligations.WrittenWordsDecode : Prop :=
  decode 0x10000000#32 = .ok .prime ∧ decode 0x20000004#32 = .ok (.pull 4) ∧
  decode 0x30004564#32 = .ok (.noteOn 69 100) ∧ decode 0x3000C864#32 = .ok (.noteOn 200 100) ∧
  decode 0x00000000#32 = .error (.reservedOp 0#4) ∧ decode 0x300045E4#32 = .error (.reservedBits 3#4) ∧
  decodeSelector 0#3 = .ok .alg0 ∧ decodeSelector 1#3 = .ok .alg1 ∧ decodeSelector 2#3 = .ok .alg2 ∧
  decodeSelector 3#3 = .ok .alg3 ∧ decodeSelector 4#3 = .ok .alg4 ∧
  ∀ alg : BitVec 3, 5 ≤ alg.toNat → ∃ e, decodeSelector alg = .error e

/-- R64: on a link that carries bytes the least significant byte goes first, and one command takes four bytes. -/
def Obligations.LinkBytesAreLittleEndian : Prop :=
  ∀ (w : Word) (x : Sample) (rest : List Byte),
    (wordBytes w).map BitVec.toNat =
      [w.toNat % 256, w.toNat / 256 % 256, w.toNat / 65536 % 256, w.toNat / 16777216] ∧
    (sampleBytes x).map BitVec.toNat = [x.toNat % 256, x.toNat / 256] ∧
    decodeBytes (wordBytes w ++ rest) = some (decode w, rest)

/-- R89: the words of the three commands; an operand that does not fit its field is refused. -/
def Obligations.AssemblerRefusesWideOperands : Prop :=
  assemble .prime = some 0x10000000#32 ∧
  (∀ f, assemble (.pull f) = if f < 2 ^ 24 then some (BitVec.ofNat 32 (0x20000000 + f)) else none) ∧
  ∀ n v, assemble (.noteOn n v) =
    if n < 256 ∧ v < 128 then some (BitVec.ofNat 32 (0x30000000 + 256 * n + v)) else none

/-! ## Fetching and stepping -/

/-- A step takes the next word the host issues and runs the instruction it decodes to. -/
def Obligations.StepRunsTheDecodedCommand : Prop :=
  ∀ (s : State) (w : Word) (l : NoteLanding) (rest : List HostEvent) (i : Instr),
    voiceWaiting s = none → decode w = .ok i →
    (s.host = .command w :: rest ∨ s.host = .during w l :: rest) →
    step s = exec i { s with host := rest, combiner := none }

/-- A step runs the routing that ALG[v] selects for the voice that waits in the combiner, the model's form (log 8). -/
def Obligations.StepRunsTheSelectedRouting : Prop :=
  ∀ (s : State) (c : Combiner) (x : Voice) (i : Instr),
    s.fault = 0#4 → s.combiner = some c → c.vout = none → s.voices[c.voice]? = some x →
    decodeSelector x.alg = .ok i → step s = exec i s

/-- The model's placing of an instruction (log 7): the very next step runs it. -/
def Obligations.PlacedInstructionRunsNext : Prop :=
  ∀ (s : State) (w : Nat) (i : Instr),
    (decodeTableWord 32 w = some i → step (s.withFetchWord 32 w) = exec i { s with combiner := none }) ∧
    (decodeTableWord 8 w = some i → s.fault = 0#4 → s.voices ≠ [] →
      step (s.withFetchWord 8 w) = exec i (s.withFetchWord 8 w))

/-! ## Faults -/

/-- R182: while FAULT is not 0 every word is taken and ignored, and only reset clears FAULT. -/
def Obligations.FaultedMachineIgnoresEveryWord : Prop :=
  (∀ (s : State) (w : Word) (l : NoteLanding) (rest : List HostEvent),
    s.fault ≠ 0#4 → (s.host = .command w :: rest ∨ s.host = .during w l :: rest) →
    step s = .next { s with host := rest, response := none, combiner := none }) ∧
  (∀ s t : State, s.fault ≠ 0#4 → step s = .next t →
    t.fault = s.fault ∨ ∃ c rest, s.host = .reset c :: rest)

/-- R185: an illegal word raises BAD_ENCODING and changes nothing else. -/
def Obligations.IllegalWordRaisesBadEncoding : Prop :=
  ∀ (s : State) (w : Word) (l : NoteLanding) (rest : List HostEvent) (e : Illegal),
    s.fault = 0#4 → voiceWaiting s = none → (s.host = .command w :: rest ∨ s.host = .during w l :: rest) →
    decode w = .error e →
    step s = .next { s with host := rest, fault := 3#4, response := none, combiner := none }

/-- R184: the three protocol faults, each of which changes nothing but FAULT. -/
def Obligations.ProtocolFaultsChangeOnlyFault : Prop :=
  ∀ s : State, s.fault = 0#4 →
    (s.primed = false → ∀ f, exec (.pull f) s =
      .next { s with fault := 4#4, response := none, combiner := none }) ∧
    (s.primed = true → exec .prime s = .next { s with fault := 5#4, response := none, combiner := none }) ∧
    (s.primed = true → ∀ f : Nat, (f = 0 ∨ s.shared.maxFrames < f) →
      exec (.pull f) s = .next { s with fault := 6#4, response := none, combiner := none })

/-- R189: for one command word the checks run in order and the first that applies decides the code. -/
def Obligations.FaultPriorityOrder : Prop :=
  ∀ (s t : State) (w : Word) (rest : List HostEvent),
    voiceWaiting s = none → s.host = .command w :: rest → step s = .next t →
    (s.fault ≠ 0#4 → t.fault = s.fault) ∧
    (s.fault = 0#4 → (∃ e, decode w = .error e) → t.fault = 3#4) ∧
    (s.fault = 0#4 → decode w = .ok .prime → t.fault = if s.primed then 5#4 else 0#4) ∧
    (∀ f, s.fault = 0#4 → decode w = .ok (.pull f) →
      (s.primed = false → t.fault = 4#4) ∧
      (s.primed = true → (f = 0 ∨ s.shared.maxFrames < f) → t.fault = 6#4) ∧
      (s.primed = true → ¬(f = 0 ∨ s.shared.maxFrames < f) → t.fault = 0#4 ∨ t.fault = 7#4)) ∧
    (∀ n v, s.fault = 0#4 → decode w = .ok (.noteOn n v) → t.fault = 0#4)

/-- R122, R187: a PULL whose first read position is not finite ends in NONFINITE and returns nothing. -/
def Obligations.NonfinitePhaseFaultsThePull : Prop :=
  ∀ (s : State) (f : Nat) (x : Voice) (xs : List Voice),
    s.fault = 0#4 → s.primed = true → 1 ≤ f → f ≤ s.shared.maxFrames →
    s.shared.commitMode = .bufferAtomic → s.polyphony = s.voices.length → s.voices = x :: xs → isFinite x.op3.phase = false →
    ∃ t, exec (.pull f) s = .next t ∧ t.fault = 7#4 ∧ t.response = none ∧ t.primed = true ∧
      t.rr = s.rr ∧ t.host = s.host ∧ t.config = s.config

/-- R181: what a NONFINITE fault leaves alone. PITCH and NOTE_VOL of every operator, RR, PRIMED and the configuration are as
before, and no partial buffer is returned. Nothing is said of the values R181 leaves unspecified. -/
def Obligations.NonfiniteFaultFrame : Prop :=
  ∀ (s t : State) (f : Nat),
    s.fault = 0#4 → s.shared.commitMode = .bufferAtomic → exec (.pull f) s = .next t → t.fault = 7#4 →
    t.response = none ∧ t.primed = s.primed ∧ t.rr = s.rr ∧ t.host = s.host ∧ t.config = s.config ∧
    ∀ (j : Nat) (x : Voice), s.voices[j]? = some x → ∃ y, t.voices[j]? = some y ∧
      ∀ k, (voiceOp y k).pitch = (voiceOp x k).pitch ∧ (voiceOp y k).noteVol = (voiceOp x k).noteVol

/-! ## Reset -/

/-- R210: what reset leaves, for every configuration record. -/
def Obligations.ResetLoadsTheRecord : Prop :=
  ∀ (s : State) (c : Config) (rest : List HostEvent),
    voiceWaiting s = none → s.host = .reset c :: rest →
    ∃ t, step s = .next t ∧ t.config = c ∧ t.fault = faultBits (validate c) ∧ t.primed = false ∧ t.rr = 0#8 ∧
      t.host = rest ∧
      ∀ x ∈ t.voices, ∀ k,
        (voiceOp x k).phase = F64.posZero ∧ (voiceOp x k).pitch = c.shared.initPitch ∧
        (voiceOp x k).noteVol = c.shared.initNoteVol ∧ (voiceOp x k).reset = false ∧
        (voiceOp x k).envN = 0#34 ∧ (voiceOp x k).envCur = F64.posZero

/-- R186: the configuration check, its order and its result, with the ranges over the rational numbers, on every record a
host can offer: numbers below 0, unlisted mode switches, and voices beyond P, which no check looks at. -/
def Obligations.ResetValidatesTheRecord : Prop :=
  ∀ c : Config,
    (¬PolyphonyOk c → (State.resetWith c).fault = 2#4) ∧
    (PolyphonyOk c → ¬AlgOk c → (State.resetWith c).fault = 1#4) ∧
    (PolyphonyOk c → AlgOk c → ¬RangesOk c → (State.resetWith c).fault = 2#4) ∧
    (PolyphonyOk c → AlgOk c → RangesOk c → Complete c → (State.resetWith c).fault = 0#4)

/-- The MODEL's own choice of a configuration (log 1): at State.reset FMD is not faulted, has one voice and the sample rate
of R8, and waits for the first word (R211, with the host's list of log 5). And its choice of log 12: a record that does not
list exactly P voices and L entries ends reset in CFG_PARAM. -/
def Obligations.InitialConfigurationIsLegal : Prop :=
  State.reset.fault = 0#4 ∧ State.reset.polyphony = 1 ∧ State.reset.shared.sampleRate = 44100 ∧
  State.reset.primed = false ∧ State.reset.rr = 0#8 ∧
  step State.reset = .next State.reset ∧
  ∀ c : Config, PolyphonyOk c → AlgOk c → ¬Complete c → (State.resetWith c).fault = 2#4

/-! ## Invariants -/

/-- After reset with any record the machine is in order and its levels are in range. -/
def Obligations.ResetStateIsInOrder : Prop :=
  ∀ c : Config, InOrder (State.resetWith c) ∧ InLevel (State.resetWith c)

/-- Every step keeps the machine in order: a listed fault code (R180), and while there is no fault a legal configuration,
RR below P (R25) and every ENV_N at -1 or in 0..a+d+1 (R30). -/
def Obligations.StepKeepsTheMachineInOrder : Prop :=
  ∀ s t : State, InOrder s → step s = .next t → InOrder t

/-- Every step keeps NOTE_VOL and the envelope value in [0.0, 1.0] and PITCH and PHASE from being NaN (R28, R31, R35). -/
def Obligations.StepKeepsTheLevelsInRange : Prop :=
  ∀ s t : State, InOrder s → InLevel s → voiceWaiting s = none → step s = .next t →
    InLevel t ∧ voiceWaiting t = none

/-- R7: no instruction changes the configuration. -/
def Obligations.NoInstructionChangesTheConfiguration : Prop :=
  ∀ (i : Instr) (s t : State), exec i s = .next t → t.config = s.config

/-- R23: PRIME alone writes PRIMED, and only reset writes it back to 0. -/
def Obligations.PrimedIsWrittenOnlyByPrime : Prop :=
  ∀ (i : Instr) (s t : State), exec i s = .next t →
    (s.primed = true → t.primed = true) ∧ (t.primed ≠ s.primed → i = .prime)

/-- R25: in BUFFER_ATOMIC only a NOTE_ON whose lookup hits writes RR, and it writes (RR + 1) mod P. -/
def Obligations.RoundRobinIsWrittenOnlyByAHit : Prop :=
  ∀ (i : Instr) (s t : State),
    s.shared.commitMode = .bufferAtomic → exec i s = .next t → t.rr ≠ s.rr →
    ∃ n v f, i = .noteOn n v ∧ noteLookup s.shared n = some f ∧
      t.rr = BitVec.ofNat 8 ((s.rr.toNat + 1) % s.polyphony)

/-! ## PRIME and NOTE_ON -/

/-- R100: the handshake, with its frame. -/
def Obligations.PrimePerformsTheHandshake : Prop :=
  ∀ s : State,
    (s.fault ≠ 0#4 → exec .prime s = .next { s with response := none }) ∧
    (s.fault = 0#4 → s.primed = true →
      exec .prime s = .next { s with fault := 5#4, response := none, combiner := none }) ∧
    (s.fault = 0#4 → s.primed = false → exec .prime s = .next { s with primed := true, response := some [] })

/-- R164, R149, R130: NOTE_ON with its frame: on a hit RR, and RESET, PITCH and NOTE_VOL of the three operators of voice RR;
on a miss nothing. -/
def Obligations.NoteOnStartsTheNoteOnVoiceRR : Prop :=
  ∀ (s : State) (n v : Nat),
    (s.fault ≠ 0#4 → exec (.noteOn n v) s = .next { s with response := none }) ∧
    (s.fault = 0#4 → noteLookup s.shared n = none → exec (.noteOn n v) s = .next { s with response := none }) ∧
    (∀ f x, s.fault = 0#4 → noteLookup s.shared n = some f → s.rr.toNat < s.polyphony →
      s.voices[s.rr.toNat]? = some x →
      exec (.noteOn n v) s = .next
        { s with
          voices := s.voices.set s.rr.toNat
            { x with
              op1 := { x.op1 with reset := true, pitch := fmul f x.op1.cfg.rate,
                                  noteVol := fdiv (f64 v) F64.oneTwentySeven },
              op2 := { x.op2 with reset := true, pitch := fmul f x.op2.cfg.rate,
                                  noteVol := fdiv (f64 v) F64.oneTwentySeven },
              op3 := { x.op3 with reset := true, pitch := fmul f x.op3.cfg.rate,
                                  noteVol := fdiv (f64 v) F64.oneTwentySeven } },
          rr := BitVec.ofNat 8 ((s.rr.toNat + 1) % s.polyphony), response := none })

/-- R165: an unmapped note changes no state, and with a legal configuration every key from 128 up is unmapped. -/
def Obligations.UnmappedNotesChangeNothing : Prop :=
  ∀ (s : State) (n v : Nat), s.fault = 0#4 →
    (noteLookup s.shared n = none ∨ (Legal s.config ∧ 128 ≤ n)) →
    exec (.noteOn n v) s = .next { s with response := none }

/-- R166: hits one after another take the voices RR, RR+1, ... modulo P, whatever those voices are doing; the last hit on a
voice decides its note, and voices that no hit reaches keep theirs. -/
def Obligations.HitsRotateOverTheVoices : Prop :=
  ∀ (s : State) (notes : List (Nat × Nat)),
    s.fault = 0#4 → s.rr.toNat < s.polyphony → s.polyphony ≤ 255 → s.polyphony = s.voices.length →
    (∀ p ∈ notes, ∃ f, noteLookup s.shared p.1 = some f) →
    ∃ t, runInstrs (notes.map fun p => .noteOn p.1 p.2) s = .next t ∧
      t.rr.toNat = (s.rr.toNat + notes.length) % s.polyphony ∧
      (∀ j, (∀ i < notes.length, (s.rr.toNat + i) % s.polyphony ≠ j) → t.voices[j]? = s.voices[j]?) ∧
      ∀ (i : Nat) (p : Nat × Nat) (f : F64) (x : Voice),
        notes[i]? = some p → noteLookup s.shared p.1 = some f →
        (∀ i', i < i' → i' < notes.length →
          (s.rr.toNat + i') % s.polyphony ≠ (s.rr.toNat + i) % s.polyphony) →
        s.voices[(s.rr.toNat + i) % s.polyphony]? = some x →
        ∃ y, t.voices[(s.rr.toNat + i) % s.polyphony]? = some y ∧ y.alg = x.alg ∧
          ∀ k, voiceOp y k = { voiceOp x k with
            reset := true, pitch := fmul f (voiceOp x k).cfg.rate,
            noteVol := fdiv (f64 p.2) F64.oneTwentySeven }

/-- R28, R164, R168: the level of a velocity lies in [0.0, 1.0], grows with the velocity, and is exactly 1.0 at 127 and 0.0
at 0. -/
def Obligations.VelocityLevelsLieInUnitRange : Prop :=
  (∀ v : Nat, v ≤ 127 → UnitLevel (fdiv (f64 v) F64.oneTwentySeven)) ∧
  (∀ v v' : Nat, v < v' → v' ≤ 127 →
    toRat (fdiv (f64 v) F64.oneTwentySeven) < toRat (fdiv (f64 v') F64.oneTwentySeven)) ∧
  fdiv (f64 127) F64.oneTwentySeven = F64.one ∧ fdiv (f64 0) F64.oneTwentySeven = F64.posZero

/-! ## The envelope -/

/-- R110: one envelope step, with what it writes. -/
def Obligations.EnvelopeStepFollowsItsBranches : Prop :=
  ∀ (o : Operator) (n a d : Int), o.envN.toInt = n → o.cfg.attack = a → o.cfg.decay = d →
    (n = -1 → envAdvance o = (F64.posZero, o)) ∧
    (n ≠ -1 → n ≤ a → envAdvance o =
      (if a = 0 then F64.one else fdiv (f64 n) (f64 a),
       { o with envN := BitVec.ofInt 34 (n + 1),
                envCur := if a = 0 then F64.one else fdiv (f64 n) (f64 a) })) ∧
    (n ≠ -1 → ¬n ≤ a → 0 < d → n - a ≤ d → envAdvance o =
      (fsub F64.one (fdiv (f64 (n - a)) (f64 d)),
       { o with envN := BitVec.ofInt 34 (n + 1), envCur := fsub F64.one (fdiv (f64 (n - a)) (f64 d)) })) ∧
    (n ≠ -1 → ¬n ≤ a → ¬(0 < d ∧ n - a ≤ d) → envAdvance o =
      (F64.posZero, { o with envN := BitVec.ofInt 34 (-1), envCur := F64.posZero }))

/-- R112: the whole sequence of steps from ENV_N = 0, in closed form. -/
def Obligations.EnvelopeSequenceFromZero : Prop :=
  ∀ (o : Operator) (j a d : Nat), o.envN = 0#34 → o.cfg.attack = a → o.cfg.decay = d →
    a < 2 ^ 32 → d < 2 ^ 32 →
    ((envAdvance (envAfter o j)).2.envN.toInt = if j ≤ a + d then (j : Int) + 1 else -1) ∧
    (j < a → (envAdvance (envAfter o j)).1 = fdiv (f64 j) (f64 a)) ∧
    (j = a → (envAdvance (envAfter o j)).1 = F64.one) ∧
    (a < j → j < a + d → (envAdvance (envAfter o j)).1 = fsub F64.one (fdiv (f64 ((j : Int) - a)) (f64 d))) ∧
    (a < j → a + d ≤ j → (envAdvance (envAfter o j)).1 = F64.posZero)

/-- R113: every value lies in [0.0, 1.0]; from ENV_N = 0 the values strictly rise over the attack, strictly fall over the
decay, and then stay 0.0. -/
def Obligations.EnvelopeIsBoundedAndMonotonic : Prop :=
  (∀ o : Operator, 0 ≤ o.cfg.attack → o.cfg.attack < 2 ^ 32 → 0 ≤ o.cfg.decay → o.cfg.decay < 2 ^ 32 → EnvNOk o →
    UnitLevel (envAdvance o).1) ∧
  ∀ (o : Operator) (j : Nat), o.envN = 0#34 → 0 ≤ o.cfg.attack → o.cfg.attack < 2 ^ 32 → 0 ≤ o.cfg.decay →
    o.cfg.decay < 2 ^ 32 →
    (j < o.cfg.attack →
      toRat (envAdvance (envAfter o j)).1 < toRat (envAdvance (envAfter o (j + 1))).1) ∧
    (o.cfg.attack ≤ j → j < o.cfg.attack + o.cfg.decay →
      toRat (envAdvance (envAfter o (j + 1))).1 < toRat (envAdvance (envAfter o j)).1) ∧
    (o.cfg.attack + o.cfg.decay < j → (envAdvance (envAfter o j)).1 = F64.posZero)

/-- R127, R111: the deferred retrigger and what it writes. -/
def Obligations.EndOfBufferRetriggersTheEnvelope : Prop :=
  ∀ o : Operator, envRetrigger o = { o with envN := 0#34 } ∧
    (o.reset = true → endOfBuffer o = { o with reset := false, envN := 0#34 }) ∧
    (o.reset = false → endOfBuffer o = o)

/-! ## The operator -/

/-- R121: the phase offset of a modulator sample: one rounding of m·L/32767, exactly L at full scale, +0.0 at 0. -/
def Obligations.PhaseOffsetIsRoundedOnce : Prop :=
  ∀ (g : GlobalConfig) (m : Int), 1 ≤ g.wtLen → g.wtLen ≤ 2 ^ 24 → -32768 ≤ m → m ≤ 32767 →
    RoundedTo ((m * g.wtLen : ℤ) / (32767 : ℚ)) (phaseOffset g m) ∧
    (m = 32767 → toRat (phaseOffset g m) = g.wtLen) ∧
    (m = 0 → phaseOffset g m = F64.posZero)

/-- R13, R61, R123: the table index is the position modulo L, in 0..L-1, so that every table read is in range. -/
def Obligations.TableReadsAreInRange : Prop :=
  ∀ (g : GlobalConfig) (idx : Int), 1 ≤ g.wtLen → g.wtLen = g.wt.length →
    ∃ i : Nat, i < g.wtLen ∧ g.wtLen ∣ (idx - i) ∧ tableSample g idx = g.wt[i]? ∧
      (tableSample g idx).isSome = true

/-- What one sample of OP_RENDER is, stage by stage (R121 to R125), and what R131 says of it. The first clause is the sample
that ends in NONFINITE, the second every other one, and the third R126's loop where no NOTE_ON overlaps. The fourth and fifth
are R131: the sample is in the signed 16-bit range, and at a gain of 1.0 it is the table entry read. The last is about the
expression alone: no sample changes under fmul by 1.0 and trunc. -/
def Obligations.OperatorOutputIsInRange : Prop :=
  (∀ (g : GlobalConfig) (r : OpRef) (m : Int) (o : Operator),
    sampleStep g r m o = .nonfinite r ↔
      isFinite (fadd o.phase (fdiv (f64 (m * g.wtLen)) (f64 32767))) = false) ∧
  (∀ (g : GlobalConfig) (r : OpRef) (m y : Int) (o o' : Operator), 1 ≤ g.wtLen → g.idxTie.isListed = true →
    (sampleStep g r m o = .done (y, o') ↔
      ∃ idx w, roundIdx g.idxTie (fadd o.phase (fdiv (f64 (m * g.wtLen)) (f64 32767))) = some idx ∧
        g.wt[(idx % g.wtLen).toNat]? = some w ∧
        trunc (fmul (f64 w) (fmul (fmul o.noteVol o.cfg.volume) (envAdvance o).1)) = some y ∧
        o' = { (envAdvance o).2 with
          phase := fadd o.phase (fdiv (fmul (f64 g.wtLen) o.pitch) (f64 g.sampleRate)) })) ∧
  (∀ (g : GlobalConfig) (r : OpRef) (m : Int) (ms out : Buffer) (o o' : Operator),
    opRender ⟨g, []⟩ r [] o = .done ([], endOfBuffer o) ∧
    (opRender ⟨g, []⟩ r (m :: ms) o = .done (out, o') ↔
      ∃ y o1 ys, sampleStep g r m o = .done (y, o1) ∧ opRender ⟨g, []⟩ r ms o1 = .done (ys, o') ∧ out = y :: ys)) ∧
  (∀ (g : GlobalConfig) (r : OpRef) (m y : Int) (o o' : Operator),
    InSampleRange g.wt → UnitLevel o.noteVol → OpConfigOk o.cfg → EnvNOk o →
    sampleStep g r m o = .done (y, o') →
    (-32768 ≤ y ∧ y ≤ 32767) ∧
    (fmul (fmul o.noteVol o.cfg.volume) (envAdvance o).1 = F64.one →
      ∃ idx, roundIdx g.idxTie (fadd o.phase (fdiv (f64 (m * g.wtLen)) (f64 32767))) = some idx ∧
        tableSample g idx = some y)) ∧
  ∀ w : Int, -32768 ≤ w → w ≤ 32767 → trunc (fmul (f64 w) F64.one) = some w

/-- R168, R216: an operator with NOTE_VOL = 0.0, or with a silent envelope, renders zeros. -/
def Obligations.SilentOperatorsRenderZeros : Prop :=
  ∀ (c : RenderContext) (r : OpRef) (m out : Buffer) (o o' : Operator),
    c.overlaps = [] → UnitLevel o.noteVol → OpConfigOk o.cfg → EnvNOk o →
    (o.noteVol = F64.posZero ∨ o.envN.toInt = -1) →
    opRender c r m o = .done (out, o') → out.length = m.length ∧ ∀ y ∈ out, y = 0

/-- R219: at PHASE of 2^53 or more an increment in [0, 1) is lost entirely. -/
def Obligations.LargePhasesLoseSmallIncrements : Prop :=
  ∀ x y : F64, isFinite x = true → isFinite y = true → 2 ^ 53 ≤ toRat x → 0 ≤ toRat y → toRat y < 1 →
    fadd x y = x

/-! ## Numbers -/

/-- R11: fadd and fsub are correctly rounded, ties to even, on all finite operands. An exact zero sum is +0.0 unless both
terms are negative zeros, as IEEE 754 has it. -/
def Obligations.AdditionIsCorrectlyRounded : Prop :=
  ∀ x y : F64, isFinite x = true → isFinite y = true →
    RoundedTo (toRat x + toRat y) (fadd x y) ∧ RoundedTo (toRat x - toRat y) (fsub x y) ∧
    (toRat x + toRat y = 0 → signBit (fadd x y) = (signBit x && signBit y)) ∧
    (toRat x - toRat y = 0 → signBit (fsub x y) = (signBit x && !signBit y))

/-- R11: fmul and fdiv are correctly rounded, ties to even, on all finite operands with a divisor other than zero; the sign is
the exclusive or of the operands' signs, also of a zero. -/
def Obligations.ProductsAndQuotientsAreCorrectlyRounded : Prop :=
  ∀ x y : F64, isFinite x = true → isFinite y = true →
    (RoundedTo (toRat x * toRat y) (fmul x y) ∧ signBit (fmul x y) = (signBit x != signBit y)) ∧
    (toRat y ≠ 0 → RoundedTo (toRat x / toRat y) (fdiv x y) ∧ signBit (fdiv x y) = (signBit x != signBit y))

/-- R11: f64(i) is exact for |i| < 2^53. -/
def Obligations.IntegerConversionIsExact : Prop :=
  ∀ i : Int, |i| < 2 ^ 53 → isFinite (f64 i) = true ∧ toRat (f64 i) = i

/-- R12: trunc is the nearest integer in the direction of zero. -/
def Obligations.TruncationIsTowardZero : Prop :=
  ∀ x : F64, isFinite x = true →
    ∃ i, trunc x = some i ∧ |(i : ℚ)| ≤ |toRat x| ∧ |toRat x - i| < 1 ∧ 0 ≤ (i : ℚ) * toRat x

/-- R14: roundIdx is the nearest integer, a half going to the even one (EVEN) or away from zero (AWAY). -/
def Obligations.IndexRoundingIsToNearest : Prop :=
  ∀ (tie : IdxTie) (x : F64), isFinite x = true →
    ∃ i, roundIdx tie x = some i ∧ |toRat x - i| ≤ 1 / 2 ∧
      (|toRat x - i| = 1 / 2 →
        (tie = .even → i % 2 = 0) ∧ (tie = .away → |toRat x| < |(i : ℚ)|))

/-! ## Voices and routing -/

/-- R142: ALG0 as an instruction on the voice in the combiner, the model's form of it (log 8). -/
def Obligations.Alg0IsTheSerialChain : Prop :=
  ∀ (s : State) (c : Combiner) (x : Voice) (out2 out1 : Buffer) (o2 o1 : Operator),
    s.fault = 0#4 → s.combiner = some c → s.voices[c.voice]? = some x →
    opRender ⟨s.shared, c.overlaps⟩ ⟨c.voice, .op2⟩ c.out3 x.op2 = .done (out2, o2) →
    opRender ⟨s.shared, c.overlaps⟩ ⟨c.voice, .op1⟩ out2 x.op1 = .done (out1, o1) →
    exec .alg0 s = .next { s with voices := s.voices.set c.voice { x with op1 := o1, op2 := o2 },
                                  combiner := some { c with vout := some out1 } }

/-- R143: ALG1 as an instruction on the voice in the combiner, the model's form of it (log 8). -/
def Obligations.Alg1SumsOp3AndOp2IntoOp1 : Prop :=
  ∀ (s : State) (c : Combiner) (x : Voice) (out2 out1 : Buffer) (o2 o1 : Operator),
    s.fault = 0#4 → s.combiner = some c → s.voices[c.voice]? = some x →
    opRender ⟨s.shared, c.overlaps⟩ ⟨c.voice, .op2⟩ (List.replicate c.out3.length 0) x.op2 = .done (out2, o2) →
    opRender ⟨s.shared, c.overlaps⟩ ⟨c.voice, .op1⟩
      (List.zipWith (fun p q => min (max (p + q) s.shared.satMin) 32767) c.out3 out2) x.op1 =
        .done (out1, o1) →
    exec .alg1 s = .next { s with voices := s.voices.set c.voice { x with op1 := o1, op2 := o2 },
                                  combiner := some { c with vout := some out1 } }

/-- R144: ALG2 as an instruction on the voice in the combiner, the model's form of it (log 8). -/
def Obligations.Alg2ModulatesBothCarriers : Prop :=
  ∀ (s : State) (c : Combiner) (x : Voice) (out2 out1 : Buffer) (o2 o1 : Operator),
    s.fault = 0#4 → s.combiner = some c → s.voices[c.voice]? = some x →
    opRender ⟨s.shared, c.overlaps⟩ ⟨c.voice, .op2⟩ c.out3 x.op2 = .done (out2, o2) →
    opRender ⟨s.shared, c.overlaps⟩ ⟨c.voice, .op1⟩ c.out3 x.op1 = .done (out1, o1) →
    exec .alg2 s = .next
      { s with voices := s.voices.set c.voice { x with op1 := o1, op2 := o2 },
               combiner := some { c with
                 vout := some (List.zipWith (fun p q => min (max (p + q) s.shared.satMin) 32767) out1 out2) } }

/-- R145: ALG3 as an instruction on the voice in the combiner, the model's form of it (log 8). -/
def Obligations.Alg3ModulatesOp2Only : Prop :=
  ∀ (s : State) (c : Combiner) (x : Voice) (out2 out1 : Buffer) (o2 o1 : Operator),
    s.fault = 0#4 → s.combiner = some c → s.voices[c.voice]? = some x →
    opRender ⟨s.shared, c.overlaps⟩ ⟨c.voice, .op2⟩ c.out3 x.op2 = .done (out2, o2) →
    opRender ⟨s.shared, c.overlaps⟩ ⟨c.voice, .op1⟩ (List.replicate c.out3.length 0) x.op1 = .done (out1, o1) →
    exec .alg3 s = .next
      { s with voices := s.voices.set c.voice { x with op1 := o1, op2 := o2 },
               combiner := some { c with
                 vout := some (List.zipWith (fun p q => min (max (p + q) s.shared.satMin) 32767) out1 out2) } }

/-- R146: ALG4 as an instruction on the voice in the combiner, the model's form of it (log 8); the sum of three is clamped once. -/
def Obligations.Alg4AddsAllThree : Prop :=
  ∀ (s : State) (c : Combiner) (x : Voice) (out2 out1 : Buffer) (o2 o1 : Operator),
    s.fault = 0#4 → s.combiner = some c → s.voices[c.voice]? = some x →
    opRender ⟨s.shared, c.overlaps⟩ ⟨c.voice, .op2⟩ (List.replicate c.out3.length 0) x.op2 = .done (out2, o2) →
    opRender ⟨s.shared, c.overlaps⟩ ⟨c.voice, .op1⟩ (List.replicate c.out3.length 0) x.op1 = .done (out1, o1) →
    ∃ vout, exec .alg4 s = .next
        { s with voices := s.voices.set c.voice { x with op1 := o1, op2 := o2 },
                 combiner := some { c with vout := some vout } } ∧
      ∀ (i : Nat) (p q r : Int), out1[i]? = some p → out2[i]? = some q → c.out3[i]? = some r →
        vout[i]? = some (min (max (p + q + r) s.shared.satMin) 32767)

/-- Every routing, as an instruction on the voice in the combiner (log 8), answers a next state for every voice in order and far from overflow: operators 2 and 1 advance by the
buffer's length, operator 3 and all else stay, and the output has the buffer's length, in range. -/
def Obligations.EveryRoutingCompletes : Prop :=
  ∀ (s : State) (c : Combiner) (x : Voice) (i : Instr),
    i ∈ [Instr.alg0, Instr.alg1, Instr.alg2, Instr.alg3, Instr.alg4] →
    InOrder s → InLevel s → s.fault = 0#4 → s.combiner = some c → c.overlaps = [] →
    s.voices[c.voice]? = some x → (∀ k, FarFromOverflow (voiceOp x k)) →
    InSampleRange c.out3 → c.out3.length < 2 ^ 24 →
    ∃ vout, InSampleRange vout ∧ vout.length = c.out3.length ∧
      exec i s = .next
        { s with
          voices := s.voices.set c.voice
            { x with op1 := pulledOp s.shared c.out3.length x.op1,
                     op2 := pulledOp s.shared c.out3.length x.op2 },
          combiner := some { c with vout := some vout } }

/-- R141: VOICE_RENDER renders op3 first, unmodulated, and then the routing that ALG[v] names. -/
def Obligations.VoiceRenderStartsWithOp3 : Prop :=
  ∀ (c : RenderContext) (v f : Nat) (x : Voice) (route : Routing),
    (x.alg, route) ∈ [(0#3, routeAlg0), (1#3, routeAlg1), (2#3, routeAlg2), (3#3, routeAlg3), (4#3, routeAlg4)] →
    voiceRender c v f x =
      match opRender c ⟨v, .op3⟩ (List.replicate f 0) x.op3 with
      | .done (out3, o3) => route c v out3 { x with op3 := o3 }
      | .nonfinite r => .nonfinite r
      | .stuck e => .stuck e

/-- The MODEL's choice (log 8): a routing asked for while no voice is being rendered is refused by name, and one asked for
while FAULT is not 0 renders nothing and drops the voice, which the spec does not have there. -/
def Obligations.RoutingsStopWithoutAVoice : Prop :=
  ∀ (s : State) (i : Instr), i ∈ [Instr.alg0, Instr.alg1, Instr.alg2, Instr.alg3, Instr.alg4] →
    (s.combiner = none → exec i s = .refused .noVoiceInCombiner) ∧
    ∀ c, s.combiner = some c → s.fault ≠ 0#4 → exec i s = .next { s with response := none, combiner := none }

/-! ## The mixer and PULL -/

/-- R161: each output sample is the exact sum of the voice samples divided by P, truncated toward zero. -/
def Obligations.MixIsTheTruncatedMean : Prop :=
  ∀ (f : Nat) (vouts : List Buffer), (∀ b ∈ vouts, b.length = f) →
    (mix f vouts).length = f ∧
    ∀ i, i < f → (mix f vouts)[i]? =
      some (Int.tdiv ((vouts.map fun b => b.getD i 0).sum) vouts.length)

/-- R162: the mix of samples in range is in range. -/
def Obligations.MixOutputIsInRange : Prop :=
  ∀ (f : Nat) (vouts : List Buffer), (∀ b ∈ vouts, InSampleRange b) → InSampleRange (mix f vouts)

/-- R101, R106, R90: a PULL that does not fault renders every voice by VOICE_RENDER with the same F and returns the mix of
their buffers, exactly F samples in 16-bit two's complement. -/
def Obligations.PullReturnsTheMixOfItsVoices : Prop :=
  ∀ (s t : State) (f : Nat), exec (.pull f) s = .next t → t.fault = 0#4 →
    1 ≤ f ∧ f ≤ s.shared.maxFrames ∧
    ∃ vouts : List Buffer, vouts.length = s.polyphony ∧ (mix f vouts).length = f ∧
      t.response = some ((mix f vouts).map (BitVec.ofInt 16)) ∧
      ∀ (j : Nat) (x : Voice), s.voices[j]? = some x → ∃ b y,
        voiceRender ⟨s.shared, (overlapsOf s).1⟩ j f x = .done (b, y) ∧ b.length = f ∧
        vouts[j]? = some b ∧ t.voices[j]? = some y

/-- R101, R126, R127: what a PULL that no NOTE_ON overlaps writes, whatever the routing and in both modes: each operator's
PHASE and envelope advance F samples and a pending retrigger is carried out at the end. PRIMED, RR, PITCH, NOTE_VOL and all
else are unchanged. PHASE is said twice, the second time with R125's increment written out; in FIELD_RACY unmapped NOTE_ONs issued during the PULL are taken from the host's events. -/
def Obligations.PullAdvancesEveryOperator : Prop :=
  ∀ (s t : State) (f : Nat),
    (s.shared.commitMode = .bufferAtomic ∨ (overlapsOf s).1 = []) → exec (.pull f) s = .next t → t.fault = 0#4 →
    t.voices = s.voices.map (mapOps fun _ o => pulledOp s.shared f o) ∧
    (∀ (j : Nat) (x : Voice), s.voices[j]? = some x → ∃ y, t.voices[j]? = some y ∧ ∀ k,
      (voiceOp y k).phase =
        (fun p => fadd p (fdiv (fmul (f64 s.shared.wtLen) (voiceOp x k).pitch) (f64 s.shared.sampleRate)))^[f]
          (voiceOp x k).phase) ∧
    t.shared = s.shared ∧ t.primed = s.primed ∧ t.rr = s.rr ∧ t.fault = s.fault ∧ t.combiner = s.combiner ∧
    t.draws = s.draws ∧ t.host = (overlapsOf s).2.2 ∧ (s.shared.commitMode = .bufferAtomic → t.host = s.host)

/-- A PULL that no NOTE_ON overlaps answers a next state without a fault, with its F samples, in both modes and from every
state in order whose operators are far from overflow. -/
def Obligations.PullCompletes : Prop :=
  ∀ (s : State) (f : Nat),
    InOrder s → InLevel s → s.fault = 0#4 → s.primed = true → 1 ≤ f → f ≤ s.shared.maxFrames →
    (s.shared.commitMode = .bufferAtomic ∨ (overlapsOf s).1 = []) → (∀ x ∈ s.voices, ∀ k, FarFromOverflow (voiceOp x k)) →
    ∃ (t : State) (b : List Sample), exec (.pull f) s = .next t ∧ t.fault = 0#4 ∧
      t.response = some b ∧ b.length = f

/-- R213, R187: from a state in order no command and no reset stops the model: a run ends in a next state, and a PULL with
legal frames after PRIME faults in nothing but NONFINITE. -/
def Obligations.DutifulRunsNeverStop : Prop :=
  ∀ s : State, InOrder s → InLevel s → voiceWaiting s = none →
    (∃ t, step s = .next t) ∧
    ∀ f : Nat, s.fault = 0#4 → s.primed = true → 1 ≤ f → f ≤ s.shared.maxFrames →
      ∃ t, exec (.pull f) s = .next t ∧ (t.fault = 0#4 ∨ t.fault = 7#4)

/-! ## Ordering -/

/-- R72 (b), R70: in BUFFER_ATOMIC a PULL never sees what the host issues after it. -/
def Obligations.AtomicPullIgnoresLaterCommands : Prop :=
  ∀ (s t : State) (f : Nat) (later : List HostEvent),
    s.shared.commitMode = .bufferAtomic → exec (.pull f) s = .next t →
    exec (.pull f) { s with host := later } = .next { t with host := later }

/-- R71, R72 (c), (d): in FIELD_RACY every field write of an overlapping NOTE_ON has taken effect when the PULL has ended,
whatever its landing time, and RR has counted every hit: hit number i goes to voice (RR + i) mod P (R25, R164). The clause on
the host's events says which NOTE_ONs overlap: those at its head that are issued during the PULL, and of them the hits. PITCH and NOTE_VOL are what the hits leave; RESET is 1 where a hit's
write landed after END_OF_BUFFER, and otherwise END_OF_BUFFER has cleared it and restarted the envelope. That landing times
are data of the host's event, and that RR moves at the PULL's start, is the model's reading (log 6). -/
def Obligations.OverlappingWritesLandByTheEnd : Prop :=
  ∀ (s t : State) (f : Nat), s.shared.commitMode = .fieldRacy → s.fault = 0#4 →
    exec (.pull f) s = .next t → t.fault = 0#4 →
    t.rr = (overlapsOf s).2.1 ∧ t.host = (overlapsOf s).2.2 ∧
    (s.rr.toNat < s.polyphony → s.polyphony ≤ 255 →
      t.rr.toNat = (s.rr.toNat + (overlapsOf s).1.length) % s.polyphony ∧
      ∀ i o, (overlapsOf s).1[i]? = some o → o.voice = (s.rr.toNat + i) % s.polyphony) ∧
    (∀ (notes : List (Word × NoteLanding)) (rest : List HostEvent),
      s.host = notes.map (fun p => .during p.1 p.2) ++ rest →
      (∀ p ∈ notes, ∃ n v, decode p.1 = .ok (.noteOn n v)) →
      (∀ w l evs, rest = .during w l :: evs → ∀ n v, decode w ≠ .ok (.noteOn n v)) →
      t.host = rest ∧
      (overlapsOf s).1.map (fun o => (o.freq, o.vol, o.landing)) = overlappingHits s.shared notes) ∧
    ∀ (j : Nat) (x : Voice), (landOverlaps (overlapsOf s).1 s.voices)[j]? = some x →
      ∃ y, t.voices[j]? = some y ∧
        ∀ k, (voiceOp y k).pitch = (voiceOp x k).pitch ∧ (voiceOp y k).noteVol = (voiceOp x k).noteVol ∧
          ((∃ o ∈ (overlapsOf s).1, o.voice = j) →
            (voiceOp y k).reset = true ∨ ((voiceOp y k).reset = false ∧ (voiceOp y k).envN = 0#34)) ∧
          ((∀ o ∈ (overlapsOf s).1, o.voice ≠ j) → (voiceOp y k).reset = false)

/-- R71, C7, with landing times as data of the host's event (log 6): a FIELD_RACY run in which the NOTE_ON's nine writes land before the first micro-step is the run in which the
NOTE_ON comes before the PULL. -/
def Obligations.OverlapAtTheStartIsNoteOnFirst : Prop :=
  ∀ (s : State) (w : Word) (rest : List HostEvent) (n v f : Nat) (freq : F64),
    s.shared.commitMode = .fieldRacy → s.fault = 0#4 → s.primed = true → 1 ≤ f → f ≤ s.shared.maxFrames →
    decode w = .ok (.noteOn n v) → noteLookup s.shared n = some freq → s.rr.toNat < s.polyphony →
    s.polyphony = s.voices.length →
    ∃ s1, exec (.noteOn n v) { s with host := rest } = .next s1 ∧
      exec (.pull f) { s with host := .during w landAtStart :: rest } = exec (.pull f) s1
end

