-- ==== Sys2Proof/Laws/State.lean ====
section
/-! SUPPORT. One lemma per field per update of the state records, each true by rfl, so that no later proof unfolds a
record update. -/

namespace Sys2Proof.Machine

/-! ### raiseFault -/

@[simp] theorem raiseFault_shared (code : FaultCode) (s : State) : (raiseFault code s).shared = s.shared := rfl
@[simp] theorem raiseFault_voices (code : FaultCode) (s : State) : (raiseFault code s).voices = s.voices := rfl
@[simp] theorem raiseFault_primed (code : FaultCode) (s : State) : (raiseFault code s).primed = s.primed := rfl
@[simp] theorem raiseFault_fault (code : FaultCode) (s : State) : (raiseFault code s).fault = if s.fault = 0#4 then faultBits code else s.fault := rfl
@[simp] theorem raiseFault_rr (code : FaultCode) (s : State) : (raiseFault code s).rr = s.rr := rfl
@[simp] theorem raiseFault_host (code : FaultCode) (s : State) : (raiseFault code s).host = s.host := rfl
@[simp] theorem raiseFault_response (code : FaultCode) (s : State) : (raiseFault code s).response = none := rfl
@[simp] theorem raiseFault_combiner (code : FaultCode) (s : State) : (raiseFault code s).combiner = none := rfl
@[simp] theorem raiseFault_draws (code : FaultCode) (s : State) : (raiseFault code s).draws = s.draws := rfl

/-! ### returnNothing -/

@[simp] theorem returnNothing_shared (s : State) : (returnNothing s).shared = s.shared := rfl
@[simp] theorem returnNothing_voices (s : State) : (returnNothing s).voices = s.voices := rfl
@[simp] theorem returnNothing_primed (s : State) : (returnNothing s).primed = s.primed := rfl
@[simp] theorem returnNothing_fault (s : State) : (returnNothing s).fault = s.fault := rfl
@[simp] theorem returnNothing_rr (s : State) : (returnNothing s).rr = s.rr := rfl
@[simp] theorem returnNothing_host (s : State) : (returnNothing s).host = s.host := rfl
@[simp] theorem returnNothing_response (s : State) : (returnNothing s).response = none := rfl
@[simp] theorem returnNothing_combiner (s : State) : (returnNothing s).combiner = s.combiner := rfl
@[simp] theorem returnNothing_draws (s : State) : (returnNothing s).draws = s.draws := rfl

/-! ### returnBuffer -/

@[simp] theorem returnBuffer_shared (b : Buffer) (s : State) : (returnBuffer b s).shared = s.shared := rfl
@[simp] theorem returnBuffer_voices (b : Buffer) (s : State) : (returnBuffer b s).voices = s.voices := rfl
@[simp] theorem returnBuffer_primed (b : Buffer) (s : State) : (returnBuffer b s).primed = s.primed := rfl
@[simp] theorem returnBuffer_fault (b : Buffer) (s : State) : (returnBuffer b s).fault = s.fault := rfl
@[simp] theorem returnBuffer_rr (b : Buffer) (s : State) : (returnBuffer b s).rr = s.rr := rfl
@[simp] theorem returnBuffer_host (b : Buffer) (s : State) : (returnBuffer b s).host = s.host := rfl
@[simp] theorem returnBuffer_response (b : Buffer) (s : State) : (returnBuffer b s).response = some (toSamples b) := rfl
@[simp] theorem returnBuffer_combiner (b : Buffer) (s : State) : (returnBuffer b s).combiner = s.combiner := rfl
@[simp] theorem returnBuffer_draws (b : Buffer) (s : State) : (returnBuffer b s).draws = s.draws := rfl

/-! ### takeEvent -/

@[simp] theorem takeEvent_shared (rest : List HostEvent) (s : State) : (takeEvent rest s).shared = s.shared := rfl
@[simp] theorem takeEvent_voices (rest : List HostEvent) (s : State) : (takeEvent rest s).voices = s.voices := rfl
@[simp] theorem takeEvent_primed (rest : List HostEvent) (s : State) : (takeEvent rest s).primed = s.primed := rfl
@[simp] theorem takeEvent_fault (rest : List HostEvent) (s : State) : (takeEvent rest s).fault = s.fault := rfl
@[simp] theorem takeEvent_rr (rest : List HostEvent) (s : State) : (takeEvent rest s).rr = s.rr := rfl
@[simp] theorem takeEvent_host (rest : List HostEvent) (s : State) : (takeEvent rest s).host = rest := rfl
@[simp] theorem takeEvent_response (rest : List HostEvent) (s : State) : (takeEvent rest s).response = s.response := rfl
@[simp] theorem takeEvent_combiner (rest : List HostEvent) (s : State) : (takeEvent rest s).combiner = none := rfl
@[simp] theorem takeEvent_draws (rest : List HostEvent) (s : State) : (takeEvent rest s).draws = s.draws := rfl

/-! ### placeCommand -/

@[simp] theorem placeCommand_shared (w : Word) (s : State) : (placeCommand w s).shared = s.shared := rfl
@[simp] theorem placeCommand_voices (w : Word) (s : State) : (placeCommand w s).voices = s.voices := rfl
@[simp] theorem placeCommand_primed (w : Word) (s : State) : (placeCommand w s).primed = s.primed := rfl
@[simp] theorem placeCommand_fault (w : Word) (s : State) : (placeCommand w s).fault = s.fault := rfl
@[simp] theorem placeCommand_rr (w : Word) (s : State) : (placeCommand w s).rr = s.rr := rfl
@[simp] theorem placeCommand_host (w : Word) (s : State) : (placeCommand w s).host = .command w :: s.host := rfl
@[simp] theorem placeCommand_response (w : Word) (s : State) : (placeCommand w s).response = s.response := rfl
@[simp] theorem placeCommand_combiner (w : Word) (s : State) : (placeCommand w s).combiner = none := rfl
@[simp] theorem placeCommand_draws (w : Word) (s : State) : (placeCommand w s).draws = s.draws := rfl

/-! ### applyReset -/

@[simp] theorem applyReset_shared (c : Config) (s : State) : (applyReset c s).shared = c.shared := rfl
@[simp] theorem applyReset_voices (c : Config) (s : State) : (applyReset c s).voices = c.voices.map (Voice.ofConfig c.shared) := rfl
@[simp] theorem applyReset_primed (c : Config) (s : State) : (applyReset c s).primed = false := rfl
@[simp] theorem applyReset_fault (c : Config) (s : State) : (applyReset c s).fault = faultBits (validate c) := rfl
@[simp] theorem applyReset_rr (c : Config) (s : State) : (applyReset c s).rr = 0#8 := rfl
@[simp] theorem applyReset_host (c : Config) (s : State) : (applyReset c s).host = s.host := rfl
@[simp] theorem applyReset_response (c : Config) (s : State) : (applyReset c s).response = none := rfl
@[simp] theorem applyReset_combiner (c : Config) (s : State) : (applyReset c s).combiner = none := rfl
@[simp] theorem applyReset_draws (c : Config) (s : State) : (applyReset c s).draws = s.draws := rfl

/-! ### raiseNonfinite -/

@[simp] theorem raiseNonfinite_shared (r : OpRef) (ovs : List Overlap) (s : State) : (raiseNonfinite r ovs s).shared = s.shared := rfl
@[simp] theorem raiseNonfinite_voices (r : OpRef) (ovs : List Overlap) (s : State) : (raiseNonfinite r ovs s).voices = abandonVoices s.draws r 0 (landOverlaps ovs s.voices) := rfl
@[simp] theorem raiseNonfinite_primed (r : OpRef) (ovs : List Overlap) (s : State) : (raiseNonfinite r ovs s).primed = s.primed := rfl
@[simp] theorem raiseNonfinite_fault (r : OpRef) (ovs : List Overlap) (s : State) : (raiseNonfinite r ovs s).fault = if s.fault = 0#4 then 7#4 else s.fault := rfl
@[simp] theorem raiseNonfinite_rr (r : OpRef) (ovs : List Overlap) (s : State) : (raiseNonfinite r ovs s).rr = s.rr := rfl
@[simp] theorem raiseNonfinite_host (r : OpRef) (ovs : List Overlap) (s : State) : (raiseNonfinite r ovs s).host = s.host := rfl
@[simp] theorem raiseNonfinite_response (r : OpRef) (ovs : List Overlap) (s : State) : (raiseNonfinite r ovs s).response = none := rfl
@[simp] theorem raiseNonfinite_combiner (r : OpRef) (ovs : List Overlap) (s : State) : (raiseNonfinite r ovs s).combiner = none := rfl
@[simp] theorem raiseNonfinite_draws (r : OpRef) (ovs : List Overlap) (s : State) : (raiseNonfinite r ovs s).draws = s.draws + 1 := rfl

/-! ### opNoteOn -/

@[simp] theorem opNoteOn_cfg (p vol : F64) (o : Operator) : (opNoteOn p vol o).cfg = o.cfg := rfl
@[simp] theorem opNoteOn_phase (p vol : F64) (o : Operator) : (opNoteOn p vol o).phase = o.phase := rfl
@[simp] theorem opNoteOn_pitch (p vol : F64) (o : Operator) : (opNoteOn p vol o).pitch = p := rfl
@[simp] theorem opNoteOn_noteVol (p vol : F64) (o : Operator) : (opNoteOn p vol o).noteVol = vol := rfl
@[simp] theorem opNoteOn_reset (p vol : F64) (o : Operator) : (opNoteOn p vol o).reset = true := rfl
@[simp] theorem opNoteOn_envN (p vol : F64) (o : Operator) : (opNoteOn p vol o).envN = o.envN := rfl
@[simp] theorem opNoteOn_envCur (p vol : F64) (o : Operator) : (opNoteOn p vol o).envCur = o.envCur := rfl

/-! ### envRetrigger -/

@[simp] theorem envRetrigger_cfg (o : Operator) : (envRetrigger o).cfg = o.cfg := rfl
@[simp] theorem envRetrigger_phase (o : Operator) : (envRetrigger o).phase = o.phase := rfl
@[simp] theorem envRetrigger_pitch (o : Operator) : (envRetrigger o).pitch = o.pitch := rfl
@[simp] theorem envRetrigger_noteVol (o : Operator) : (envRetrigger o).noteVol = o.noteVol := rfl
@[simp] theorem envRetrigger_reset (o : Operator) : (envRetrigger o).reset = o.reset := rfl
@[simp] theorem envRetrigger_envN (o : Operator) : (envRetrigger o).envN = toEnvN 0 := rfl
@[simp] theorem envRetrigger_envCur (o : Operator) : (envRetrigger o).envCur = o.envCur := rfl

/-! ### advancePhase -/

@[simp] theorem advancePhase_cfg (g : GlobalConfig) (o : Operator) : (advancePhase g o).cfg = o.cfg := rfl
@[simp] theorem advancePhase_phase (g : GlobalConfig) (o : Operator) : (advancePhase g o).phase = fadd o.phase (phaseInc g o) := rfl
@[simp] theorem advancePhase_pitch (g : GlobalConfig) (o : Operator) : (advancePhase g o).pitch = o.pitch := rfl
@[simp] theorem advancePhase_noteVol (g : GlobalConfig) (o : Operator) : (advancePhase g o).noteVol = o.noteVol := rfl
@[simp] theorem advancePhase_reset (g : GlobalConfig) (o : Operator) : (advancePhase g o).reset = o.reset := rfl
@[simp] theorem advancePhase_envN (g : GlobalConfig) (o : Operator) : (advancePhase g o).envN = o.envN := rfl
@[simp] theorem advancePhase_envCur (g : GlobalConfig) (o : Operator) : (advancePhase g o).envCur = o.envCur := rfl

/-! ### landAll -/

@[simp] theorem landAll_cfg (p : PendingWrites) (o : Operator) : (landAll p o).cfg = o.cfg := rfl
@[simp] theorem landAll_phase (p : PendingWrites) (o : Operator) : (landAll p o).phase = o.phase := rfl
@[simp] theorem landAll_pitch (p : PendingWrites) (o : Operator) : (landAll p o).pitch = lastWrite o.pitch p.pitches := rfl
@[simp] theorem landAll_noteVol (p : PendingWrites) (o : Operator) : (landAll p o).noteVol = lastWrite o.noteVol p.noteVols := rfl
@[simp] theorem landAll_reset (p : PendingWrites) (o : Operator) : (landAll p o).reset = (o.reset || !p.resets.isEmpty) := rfl
@[simp] theorem landAll_envN (p : PendingWrites) (o : Operator) : (landAll p o).envN = o.envN := rfl
@[simp] theorem landAll_envCur (p : PendingWrites) (o : Operator) : (landAll p o).envCur = o.envCur := rfl

/-! ### abandonOp -/

@[simp] theorem abandonOp_cfg (draw : Nat) (r : OpRef) (o : Operator) : (abandonOp draw r o).cfg = o.cfg := rfl
@[simp] theorem abandonOp_phase (draw : Nat) (r : OpRef) (o : Operator) : (abandonOp draw r o).phase = Config.unspecifiedPhase draw r := rfl
@[simp] theorem abandonOp_pitch (draw : Nat) (r : OpRef) (o : Operator) : (abandonOp draw r o).pitch = o.pitch := rfl
@[simp] theorem abandonOp_noteVol (draw : Nat) (r : OpRef) (o : Operator) : (abandonOp draw r o).noteVol = o.noteVol := rfl
@[simp] theorem abandonOp_reset (draw : Nat) (r : OpRef) (o : Operator) : (abandonOp draw r o).reset = Config.unspecifiedReset draw r := rfl
@[simp] theorem abandonOp_envN (draw : Nat) (r : OpRef) (o : Operator) : (abandonOp draw r o).envN = Config.unspecifiedEnvN draw r := rfl
@[simp] theorem abandonOp_envCur (draw : Nat) (r : OpRef) (o : Operator) : (abandonOp draw r o).envCur = Config.unspecifiedEnvCur draw r := rfl

/-! ### voices -/

@[simp] theorem voiceOp_op1 (v : Voice) : voiceOp v .op1 = v.op1 := rfl
@[simp] theorem voiceOp_op2 (v : Voice) : voiceOp v .op2 = v.op2 := rfl
@[simp] theorem voiceOp_op3 (v : Voice) : voiceOp v .op3 = v.op3 := rfl
@[simp] theorem mapOps_alg (f : OpIx → Operator → Operator) (v : Voice) : (mapOps f v).alg = v.alg := rfl

@[simp] theorem voiceOp_mapOps (f : OpIx → Operator → Operator) (v : Voice) (k : OpIx) :
    voiceOp (mapOps f v) k = f k (voiceOp v k) := by
  cases k <;> rfl

/-- Two voices with the same selector and the same operators are the same. -/
theorem voice_ext {x y : Voice} (h : x.alg = y.alg) (ho : ∀ k, voiceOp x k = voiceOp y k) : x = y := by
  cases x
  cases y
  have h1 := ho .op1
  have h2 := ho .op2
  have h3 := ho .op3
  simp only [voiceOp_op1, voiceOp_op2, voiceOp_op3] at h h1 h2 h3
  simp [h, h1, h2, h3]

@[simp] theorem Voice.config_ofConfig (g : GlobalConfig) (v : VoiceConfig) : (Voice.ofConfig g v).config = v := rfl

/-- The configuration of a voice is unchanged where its operators keep their control registers. -/
theorem config_mapOps {f : OpIx → Operator → Operator} (v : Voice) (h : ∀ k o, (f k o).cfg = o.cfg) :
    (mapOps f v).config = v.config := by
  simp [Voice.config, mapOps, h]

@[simp] theorem State.config_shared (s : State) : s.config.shared = s.shared := rfl
@[simp] theorem State.config_voices (s : State) : s.config.voices = s.voices.map Voice.config := rfl

/-- POLYPHONY is the register of the record that was loaded (R33). -/
@[simp] theorem State.polyphony_eq (s : State) : s.shared.polyphony.toNat = s.polyphony := rfl

/-! ### the mode switches -/

@[simp] theorem commitMode_isListed_bufferAtomic : CommitMode.bufferAtomic.isListed = true := rfl
@[simp] theorem commitMode_isListed_fieldRacy : CommitMode.fieldRacy.isListed = true := rfl
@[simp] theorem commitMode_isListed_unlisted (n : Nat) : (CommitMode.unlisted n).isListed = false := rfl
@[simp] theorem idxTie_isListed_even : IdxTie.even.isListed = true := rfl
@[simp] theorem idxTie_isListed_away : IdxTie.away.isListed = true := rfl
@[simp] theorem idxTie_isListed_unlisted (n : Nat) : (IdxTie.unlisted n).isListed = false := rfl

/-- COMMIT_MODE passes R186 exactly at its two listed values. -/
theorem commitMode_isListed_iff (m : CommitMode) : m.isListed = true ↔ m = .bufferAtomic ∨ m = .fieldRacy := by
  cases m <;> simp

/-- IDX_TIE passes R186 exactly at its two listed values. -/
theorem idxTie_isListed_iff (t : IdxTie) : t.isListed = true ↔ t = .even ∨ t = .away := by
  cases t <;> simp

/-! ### outcomes -/

@[simp] theorem Rendered.andThen_done {α β : Type} (a : α) (f : α → Rendered β) :
    (Rendered.done a).andThen f = f a := rfl
@[simp] theorem Rendered.andThen_nonfinite {α β : Type} (r : OpRef) (f : α → Rendered β) :
    (Rendered.nonfinite r : Rendered α).andThen f = .nonfinite r := rfl
@[simp] theorem Rendered.andThen_stuck {α β : Type} (e : Fault) (f : α → Rendered β) :
    (Rendered.stuck e : Rendered α).andThen f = .stuck e := rfl

end Sys2Proof.Machine
end

