-- ==== Sys2Proof/Laws/Ops.lean ====
section
/-! SUPPORT. For each shared operation, once, what it can do. -/

namespace Sys2Proof.Machine

/-- A chain of renderings is done exactly when both parts are. -/
theorem Rendered.andThen_eq_done {α β : Type} {x : Rendered α} {f : α → Rendered β} {b : β} :
    x.andThen f = .done b ↔ ∃ a, x = .done a ∧ f a = .done b := by
  cases x <;> simp

/-- A chain stops at a position that is not finite in its first part or, that being done, in its second. -/
theorem Rendered.andThen_eq_nonfinite {α β : Type} {x : Rendered α} {f : α → Rendered β} {r : OpRef} :
    x.andThen f = .nonfinite r ↔ x = .nonfinite r ∨ ∃ a, x = .done a ∧ f a = .nonfinite r := by
  cases x <;> simp

theorem Rendered.andThen_eq_stuck {α β : Type} {x : Rendered α} {f : α → Rendered β} {e : Fault} :
    x.andThen f = .stuck e ↔ x = .stuck e ∨ ∃ a, x = .done a ∧ f a = .stuck e := by
  cases x <;> simp

/-- What one envelope step can do (R110): write nothing, or write ENV_N and ENV_CUR. -/
theorem envAdvance_cases (o : Operator) :
    (o.envN.toInt = -1 ∧ envAdvance o = (F64.posZero, o)) ∨
    (o.envN.toInt ≠ -1 ∧ o.envN.toInt ≤ o.cfg.attack ∧
      envAdvance o = envWrite (o.envN.toInt + 1) (attackLevel o.cfg.attack o.envN.toInt) o) ∨
    (o.envN.toInt ≠ -1 ∧ o.cfg.attack < o.envN.toInt ∧ 0 < o.cfg.decay ∧
      o.envN.toInt - o.cfg.attack ≤ o.cfg.decay ∧
      envAdvance o = envWrite (o.envN.toInt + 1) (decayLevel o.cfg.attack o.cfg.decay o.envN.toInt) o) ∨
    (o.envN.toInt ≠ -1 ∧ o.cfg.attack < o.envN.toInt ∧
      ¬(0 < o.cfg.decay ∧ o.envN.toInt - o.cfg.attack ≤ o.cfg.decay) ∧
      envAdvance o = envWrite (-1) F64.posZero o) := by
  by_cases h1 : o.envN.toInt = -1
  · exact .inl ⟨h1, by simp [envAdvance, h1]⟩
  by_cases h2 : o.envN.toInt ≤ o.cfg.attack
  · exact .inr (.inl ⟨h1, h2, by simp [envAdvance, h1, h2]⟩)
  by_cases h3 : 0 < o.cfg.decay ∧ o.envN.toInt - o.cfg.attack ≤ o.cfg.decay
  · exact .inr (.inr (.inl ⟨h1, by omega, h3.1, h3.2, by simp only [envAdvance, h1, h2, h3, and_self, if_true, if_false]⟩))
  · exact .inr (.inr (.inr ⟨h1, by omega, h3, by simp only [envAdvance, h1, h2, h3, if_false]⟩))

/-- An envelope step writes ENV_N and ENV_CUR only. -/
theorem envAdvance_frame (o : Operator) :
    (envAdvance o).2 = { o with envN := (envAdvance o).2.envN, envCur := (envAdvance o).2.envCur } := by
  rcases envAdvance_cases o with ⟨-, h⟩ | ⟨-, -, h⟩ | ⟨-, -, -, -, h⟩ | ⟨-, -, -, h⟩ <;> rw [h] <;> rfl

/-- What one sample that is done has computed (R121 to R125). -/
theorem sampleStep_eq_done {g : GlobalConfig} {r : OpRef} {m y : Int} {o o' : Operator} :
    sampleStep g r m o = .done (y, o') ↔
      ∃ idx w, roundIdx g.idxTie (readPosition g m o) = some idx ∧ g.idxTie.isListed = true ∧
        tableSample g idx = some w ∧
        trunc (fmul (f64 w) (gain o (envAdvance o).1)) = some y ∧ o' = advancePhase g (envAdvance o).2 := by
  unfold sampleStep
  cases h1 : roundIdx g.idxTie (readPosition g m o) with
  | none => simp
  | some idx =>
    cases h0 : g.idxTie.isListed with
    | false => simp
    | true =>
      cases h2 : tableSample g idx with
      | none => simp [h2]
      | some w =>
        cases h3 : trunc (fmul (f64 w) (gain o (envAdvance o).1)) with
        | none => simp [h2, h3]
        | some z => simp [h2, h3, eq_comm]

/-- A done sample keeps everything but PHASE, ENV_N and ENV_CUR. -/
theorem sampleStep_frame {g : GlobalConfig} {r : OpRef} {m y : Int} {o o' : Operator}
    (h : sampleStep g r m o = .done (y, o')) :
    o'.cfg = o.cfg ∧ o'.pitch = o.pitch ∧ o'.noteVol = o.noteVol ∧ o'.reset = o.reset := by
  obtain ⟨idx, w, -, -, -, -, rfl⟩ := sampleStep_eq_done.mp h
  rw [envAdvance_frame o]
  exact ⟨rfl, rfl, rfl, rfl⟩

/-- One micro-step of a rendering, and the rendering after it (R126, R71). -/
theorem renderSamples_cons_eq_done {g : GlobalConfig} {r : OpRef} {p : PendingWrites} {t : Nat} {m : Int}
    {ms out : Buffer} {o o' : Operator} :
    renderSamples g r p t (m :: ms) o = .done (out, o') ↔
      ∃ y o1 ys, sampleStep g r m (landDue t p o).1 = .done (y, o1) ∧
        renderSamples g r (landDue t p o).2 (t + 1) ms o1 = .done (ys, o') ∧ out = y :: ys := by
  simp only [renderSamples, Rendered.andThen_eq_done, Prod.exists, Rendered.done.injEq, Prod.mk.injEq]
  constructor
  · rintro ⟨y, o1, h1, ys, o2, h2, rfl, rfl⟩
    exact ⟨y, o1, ys, h1, h2, rfl⟩
  · rintro ⟨y, o1, ys, h1, h2, rfl⟩
    exact ⟨y, o1, h1, ys, o', h2, rfl, rfl⟩

/-- The output of a rendering has the length of its modulator (R102). -/
theorem renderSamples_length {g : GlobalConfig} {r : OpRef} {m : Buffer} :
    ∀ {p : PendingWrites} {t : Nat} {o o' : Operator} {out : Buffer},
      renderSamples g r p t m o = .done (out, o') → out.length = m.length := by
  induction m with
  | nil =>
    intro p t o o' out h
    simp only [renderSamples, Rendered.done.injEq, Prod.mk.injEq] at h
    simp [← h.1]
  | cons x xs ih =>
    intro p t o o' out h
    obtain ⟨y, o1, ys, -, h2, rfl⟩ := renderSamples_cons_eq_done.mp h
    simp [ih h2]

theorem opRender_length {c : RenderContext} {r : OpRef} {m out : Buffer} {o o' : Operator}
    (h : opRender c r m o = .done (out, o')) : out.length = m.length :=
  renderSamples_length h

/-- With no write pending nothing lands before a micro-step (R70). -/
@[simp] theorem landDue_none (t : Nat) (o : Operator) : landDue t ⟨[], [], []⟩ o = (o, ⟨[], [], []⟩) := rfl

/-- With no write pending nothing lands at the end. -/
@[simp] theorem landAll_none (o : Operator) : landAll ⟨[], [], []⟩ o = o := by
  simp [landAll, lastWrite]

/-- Without an overlapping NOTE_ON no write is pending. -/
@[simp] theorem pendingFor_none (r : OpRef) (rate : F64) : pendingFor [] r rate = ⟨[], [], []⟩ := rfl

/-- What the end of a buffer can do (R127). -/
theorem endOfBuffer_cases (o : Operator) :
    (o.reset = true ∧ endOfBuffer o = { o with reset := false, envN := toEnvN 0 }) ∨
    (o.reset = false ∧ endOfBuffer o = o) := by
  unfold endOfBuffer
  cases h : o.reset
  · exact .inr ⟨rfl, by simp⟩
  · exact .inl ⟨rfl, by simp [envRetrigger]⟩

/-- A routing that is done has rendered operators 2 and 1 and nothing else (R142 to R146). -/
theorem renderCarriers_eq_done {c : RenderContext} {v : Nat} {m2 : Buffer} {m1 : Buffer → Buffer}
    {vout : Buffer → Buffer → Buffer} {x y : Voice} {b : Buffer} :
    renderCarriers c v m2 m1 vout x = .done (b, y) ↔
      ∃ out2 o2 out1 o1, opRender c ⟨v, .op2⟩ m2 x.op2 = .done (out2, o2) ∧
        opRender c ⟨v, .op1⟩ (m1 out2) x.op1 = .done (out1, o1) ∧
        b = vout out1 out2 ∧ y = { x with op1 := o1, op2 := o2 } := by
  simp only [renderCarriers, Rendered.andThen_eq_done, Prod.exists, Rendered.done.injEq, Prod.mk.injEq]
  constructor
  · rintro ⟨out2, o2, h2, out1, o1, h1, rfl, rfl⟩
    exact ⟨out2, o2, out1, o1, h2, h1, rfl, rfl⟩
  · rintro ⟨out2, o2, out1, o1, h2, h1, rfl, rfl⟩
    exact ⟨out2, o2, h2, out1, o1, h1, rfl, rfl⟩

/-- The voices of a PULL, one at a time. -/
theorem renderVoices_cons_eq_done {c : RenderContext} {f v : Nat} {x : Voice} {xs ys : List Voice}
    {bs : List Buffer} :
    renderVoices c f v (x :: xs) = .done (bs, ys) ↔
      ∃ b y bs' ys', voiceRender c v f x = .done (b, y) ∧ renderVoices c f (v + 1) xs = .done (bs', ys') ∧
        bs = b :: bs' ∧ ys = y :: ys' := by
  simp only [renderVoices, Rendered.andThen_eq_done, Prod.exists, Rendered.done.injEq, Prod.mk.injEq]
  constructor
  · rintro ⟨b, y, h1, bs', ys', h2, rfl, rfl⟩
    exact ⟨b, y, bs', ys', h1, h2, rfl, rfl⟩
  · rintro ⟨b, y, bs', ys', h1, h2, rfl, rfl⟩
    exact ⟨b, y, h1, bs', ys', h2, rfl, rfl⟩

/-- Voice v after a NOTE_ON's nine writes; every other voice is unchanged. -/
theorem landNote_getElem? (v j : Nat) (p vol : F64) (vs : List Voice) :
    (landNote v p vol vs)[j]? = if v = j then (vs[j]?).map (voiceNoteOn p vol) else vs[j]? := by
  unfold landNote
  rw [List.getElem?_modify]
  split_ifs <;> simp

@[simp] theorem landNote_length (v : Nat) (p vol : F64) (vs : List Voice) :
    (landNote v p vol vs).length = vs.length := by
  simp [landNote]

@[simp] theorem landOverlaps_length (ovs : List Overlap) (vs : List Voice) :
    (landOverlaps ovs vs).length = vs.length := by
  unfold landOverlaps
  induction ovs generalizing vs with
  | nil => rfl
  | cons o ovs ih => simp [ih]

@[simp] theorem abandonVoices_length (draw : Nat) (stop : OpRef) (v : Nat) (vs : List Voice) :
    (abandonVoices draw stop v vs).length = vs.length := by
  induction vs generalizing v with
  | nil => rfl
  | cons x xs ih => simp [abandonVoices, ih]

/-- A modulo below P ≤ 256 fits RR. -/
theorem nextRR_toNat {p : Nat} (rr : BitVec 8) (h : p ≤ 256) (hp : 0 < p) :
    (nextRR p rr).toNat = (rr.toNat + 1) % p := by
  have := Nat.mod_lt (rr.toNat + 1) hp
  simp only [nextRR, BitVec.toNat_ofNat]
  omega

/-- A position modulo a table of at least one entry is an index of the table (R13, R61). -/
theorem floorMod_range (i : Int) {l : Nat} (h : 0 < l) : 0 ≤ floorMod i l ∧ floorMod i l < l := by
  unfold floorMod
  exact ⟨Int.emod_nonneg _ (by omega), Int.emod_lt_of_pos _ (by omega)⟩

end Sys2Proof.Machine
end

