-- ==== Sys2Proof/Laws/Commands.lean ====
section
/-! SUPPORT. What each meaning, the fetch and the step can do, once each. -/

namespace Sys2Proof.Machine

/-- What PRIME can do (R100). -/
theorem execPrime_cases {s t : State} (h : execPrime s = .next t) :
    (s.fault ≠ 0#4 ∧ t = returnNothing s) ∨
    (s.fault = 0#4 ∧ s.primed = true ∧ t = raiseFault .primeTwice s) ∨
    (s.fault = 0#4 ∧ s.primed = false ∧ t = returnBuffer [] { s with primed := true }) := by
  unfold execPrime at h
  split_ifs at h with h1 h2 <;> injection h with h <;> simp_all

/-- What NOTE_ON can do (R164). -/
theorem execNoteOn_cases {n v : Nat} {s t : State} (h : execNoteOn n v s = .next t) :
    (s.fault ≠ 0#4 ∧ t = returnNothing s) ∨
    (s.fault = 0#4 ∧ noteLookup s.shared n = none ∧ t = returnNothing s) ∨
    (∃ f, s.fault = 0#4 ∧ noteLookup s.shared n = some f ∧ s.rr.toNat < s.polyphony ∧
      s.rr.toNat < s.voices.length ∧
      t = returnNothing { s with voices := landNote s.rr.toNat f (velocityLevel v) s.voices,
                                 rr := nextRR s.polyphony s.rr }) := by
  unfold execNoteOn at h
  by_cases h0 : s.fault = 0#4
  · rw [if_neg (not_not.mpr h0)] at h
    cases hf : noteLookup s.shared n with
    | none =>
      simp only [hf] at h
      injection h with h
      exact .inr (.inl ⟨h0, rfl, h.symm⟩)
    | some f =>
      simp only [hf] at h
      split_ifs at h with h2
      injection h with h
      exact .inr (.inr ⟨f, h0, rfl, h2.1, h2.2, h.symm⟩)
  · rw [if_pos h0] at h
    injection h with h
    exact .inl ⟨h0, h.symm⟩

/-- What PULL can do after its checks: all voices are rendered and mixed, or the PULL ends in NONFINITE. -/
theorem renderPull_cases {f : Nat} {s t : State} (h : renderPull f s = .next t) :
    (∃ bs vs, renderVoices { shared := s.shared, overlaps := (overlapsOf s).1 } f 0 s.voices = .done (bs, vs) ∧
      t = returnBuffer (mix f bs)
        { s with rr := (overlapsOf s).2.1, host := (overlapsOf s).2.2, voices := vs }) ∨
    (∃ r, renderVoices { shared := s.shared, overlaps := (overlapsOf s).1 } f 0 s.voices = .nonfinite r ∧
      t = raiseNonfinite r (overlapsOf s).1
        { s with rr := (overlapsOf s).2.1, host := (overlapsOf s).2.2 }) := by
  unfold renderPull at h
  simp only at h
  split_ifs at h with h0 h1
  cases hr : renderVoices { shared := s.shared, overlaps := (overlapsOf s).1 } f 0 s.voices with
  | done a =>
    rw [hr] at h
    injection h with h
    exact .inl ⟨a.1, a.2, rfl, h.symm⟩
  | nonfinite r =>
    rw [hr] at h
    injection h with h
    exact .inr ⟨r, rfl, h.symm⟩
  | stuck e =>
    rw [hr] at h
    cases h

/-- What PULL can do (R101). -/
theorem execPull_cases {f : Nat} {s t : State} (h : execPull f s = .next t) :
    (s.fault ≠ 0#4 ∧ t = returnNothing s) ∨
    (s.fault = 0#4 ∧ s.primed = false ∧ t = raiseFault .pullBeforePrime s) ∨
    (s.fault = 0#4 ∧ s.primed = true ∧ framesLegal s.shared f = false ∧ t = raiseFault .badFrames s) ∨
    (s.fault = 0#4 ∧ s.primed = true ∧ framesLegal s.shared f = true ∧ renderPull f s = .next t) := by
  unfold execPull at h
  split_ifs at h with h1 h2 h3
  · injection h with h
    exact .inl ⟨h1, h.symm⟩
  · injection h with h
    exact .inr (.inl ⟨not_not.mp h1, by simpa using h2, h.symm⟩)
  · injection h with h
    exact .inr (.inr (.inl ⟨not_not.mp h1, by simpa using h2, by simpa using h3, h.symm⟩))
  · exact .inr (.inr (.inr ⟨not_not.mp h1, by simpa using h2, by simpa using h3, h⟩))

/-- What a routing can do as an instruction (R142 to R146): nothing while FAULT is not 0, else render the voice in the
combiner or end in NONFINITE. -/
theorem routeWith_cases {route : Routing} {s t : State} (h : routeWith route s = .next t) :
    (∃ c, s.combiner = some c ∧ s.fault ≠ 0#4 ∧ t = returnNothing { s with combiner := none }) ∨
    ∃ c x, s.combiner = some c ∧ s.fault = 0#4 ∧ s.voices[c.voice]? = some x ∧
      ((∃ b y, route { shared := s.shared, overlaps := c.overlaps } c.voice c.out3 x = .done (b, y) ∧
          t = { s with voices := s.voices.set c.voice y, combiner := some { c with vout := some b } }) ∨
       (∃ r, route { shared := s.shared, overlaps := c.overlaps } c.voice c.out3 x = .nonfinite r ∧
          t = raiseNonfinite r c.overlaps s)) := by
  unfold routeWith at h
  cases hc : s.combiner with
  | none => simp [hc] at h
  | some c =>
    by_cases h0 : s.fault = 0#4
    case neg =>
      simp only [hc, if_pos h0] at h
      injection h with h
      exact .inl ⟨c, rfl, h0, h.symm⟩
    cases hx : s.voices[c.voice]? with
    | none => simp [hc, hx, h0] at h
    | some x =>
      simp only [hc, if_neg (not_not.mpr h0), hx] at h
      refine .inr ⟨c, x, rfl, h0, hx, ?_⟩
      cases hr : route { shared := s.shared, overlaps := c.overlaps } c.voice c.out3 x with
      | done a =>
        rw [hr] at h
        injection h with h
        exact .inl ⟨a.1, a.2, rfl, h.symm⟩
      | nonfinite r =>
        rw [hr] at h
        injection h with h
        exact .inr ⟨r, rfl, h.symm⟩
      | stuck e =>
        rw [hr] at h
        cases h

/-- A command word decodes to one of the three commands, with operands that fit their fields (R92). -/
theorem decode_cases {w : Word} {i : Instr} (h : decode w = .ok i) :
    i = .prime ∨ (∃ f, f < 2 ^ 24 ∧ i = .pull f) ∨ (∃ n v, n < 2 ^ 8 ∧ v < 2 ^ 7 ∧ i = .noteOn n v) := by
  unfold decode at h
  simp only at h
  split_ifs at h with h1 h2 h3 h4 h5 h6 <;> injection h with h
  · exact .inl h.symm
  · exact .inr (.inl ⟨_, (field w 0 24).isLt, h.symm⟩)
  · exact .inr (.inr ⟨_, _, (field w 8 8).isLt, (field w 0 7).isLt, h.symm⟩)

/-- A voice waits exactly where the combiner holds one without its output and FAULT is 0. -/
theorem voiceWaiting_eq_some {s : State} {c : Combiner} :
    voiceWaiting s = some c ↔ s.combiner = some c ∧ c.vout = none ∧ s.fault = 0#4 := by
  unfold voiceWaiting
  cases hc : s.combiner with
  | none => simp
  | some d =>
    simp only [Option.some.injEq]
    split_ifs with hd
    · exact ⟨fun h => Option.some.inj h ▸ ⟨rfl, hd⟩, fun h => congrArg some h.1⟩
    · exact ⟨fun h => (by cases h), fun h => absurd (h.1 ▸ h.2) hd⟩

/-- No voice waits in a faulted FMD (R182). -/
theorem voiceWaiting_of_fault {s : State} (h : s.fault ≠ 0#4) : voiceWaiting s = none := by
  cases hv : voiceWaiting s with
  | none => rfl
  | some c => exact absurd (voiceWaiting_eq_some.mp hv).2.2 h

/-- What one step can do: run a waiting voice's routing, wait, take a word, or reset. -/
theorem step_cases {s t : State} (h : step s = .next t) :
    (∃ c x i, voiceWaiting s = some c ∧ s.voices[c.voice]? = some x ∧ decodeSelector x.alg = .ok i ∧
      exec i s = .next t) ∨
    (voiceWaiting s = none ∧ s.host = [] ∧ t = s) ∨
    (∃ w l rest, voiceWaiting s = none ∧ (s.host = .command w :: rest ∨ s.host = .during w l :: rest) ∧
      ((∃ i, decode w = .ok i ∧ exec i (takeEvent rest s) = .next t) ∨
       (∃ e, decode w = .error e ∧ t = takeIllegal (takeEvent rest s)))) ∨
    (∃ c rest, voiceWaiting s = none ∧ s.host = .reset c :: rest ∧ t = applyReset c (takeEvent rest s)) := by
  unfold step fetch at h
  cases hw : voiceWaiting s with
  | some c =>
    simp only [hw] at h
    cases hx : s.voices[c.voice]? with
    | none => simp [hx] at h
    | some x =>
      simp only [hx] at h
      cases hd : decodeSelector x.alg with
      | error e => simp [hd] at h
      | ok i =>
        simp only [hd] at h
        exact .inl ⟨c, x, i, rfl, hx, hd, h⟩
  | none =>
    simp only [hw] at h
    cases hh : s.host with
    | nil =>
      simp only [fetchEvent, hh] at h
      injection h with h
      exact .inr (.inl ⟨rfl, rfl, h.symm⟩)
    | cons ev rest =>
      cases ev with
      | command w =>
        refine .inr (.inr (.inl ⟨w, ⟨⟨0, 0, 0⟩, ⟨0, 0, 0⟩, ⟨0, 0, 0⟩⟩, rest, rfl, .inl rfl, ?_⟩))
        simp only [fetchEvent, hh, fetchWord] at h
        cases hd : decode w with
        | ok i =>
          simp only [hd] at h
          exact .inl ⟨i, rfl, h⟩
        | error e =>
          simp only [hd] at h
          injection h with h
          exact .inr ⟨e, rfl, h.symm⟩
      | during w l =>
        refine .inr (.inr (.inl ⟨w, l, rest, rfl, .inr rfl, ?_⟩))
        simp only [fetchEvent, hh, fetchWord] at h
        cases hd : decode w with
        | ok i =>
          simp only [hd] at h
          exact .inl ⟨i, rfl, h⟩
        | error e =>
          simp only [hd] at h
          injection h with h
          exact .inr ⟨e, rfl, h.symm⟩
      | reset c =>
        simp only [fetchEvent, hh] at h
        injection h with h
        exact .inr (.inr (.inr ⟨c, rest, rfl, rfl, h.symm⟩))

end Sys2Proof.Machine
end

