-- ==== Sys2Proof/Tests/Slice0.lean ====
section
/-! SUPPORT. The model's own tests: vectors of 95_test_vectors.md on small states, and for every statement with hypotheses
one concrete state that meets them. -/

-- One theorem at a time: each runs the kernel on a small state, and many at once exhaust the thread stacks.
set_option Elab.async false

namespace Sys2Proof.Tests

open Sys2Proof.Machine

/-! ## Small states -/

def half : F64 := 0x3FE0000000000000#64
def two : F64 := 0x4000000000000000#64
def posInf : F64 := 0x7FF0000000000000#64

/-- NOTE_FREQ(60) = 1.0 and NOTE_FREQ(62) = 2.0. -/
def notes : List (Option F64) := List.replicate 60 none ++ [some F64.one, none, some two]

/-- BASE with the table of V-RT-1. -/
def shared1 : GlobalConfig :=
  { polyphony := 1, sampleRate := 4, wtLen := 4, wt := [8192, 16384, -8192, -16384], noteFreq := notes, maxFrames := 4096,
    initPitch := F64.posZero, initNoteVol := F64.posZero, commitMode := .bufferAtomic, satMin := -32768,
    idxTie := .even }

def cfg1 : OpConfig := { attack := 0, decay := 16, volume := F64.one, rate := F64.one }

/-- An operator after `NOTE_ON 60, 127` from reset. -/
def op1' : Operator :=
  { cfg := cfg1, phase := F64.posZero, pitch := F64.one, noteVol := F64.one, reset := true, envN := 0#34,
    envCur := F64.posZero }

def voice1 (alg : BitVec 3) : Voice := { alg := alg, op1 := op1', op2 := op1', op3 := op1' }

/-- V-RT-1 after PRIME and `NOTE_ON 60, 127`. -/
def playing (alg : BitVec 3) : State :=
  { shared := shared1, voices := [voice1 alg], primed := true, fault := 0#4, rr := 0#8, host := [],
    response := none, combiner := none, draws := 0 }

/-- V-RT-1 with op3's buffer rendered: the voice waits for its routing. -/
def waiting (alg : BitVec 3) : State :=
  { playing alg with
    combiner := some { voice := 0, out3 := [8192, 15360, -7168, -13312], overlaps := [], vout := none } }

/-- Two voices, nothing issued yet. -/
def twoVoices : State := { playing 3#3 with shared := { shared1 with polyphony := 2 }, voices := [voice1 3#3, voice1 3#3] }

/-- What a step or an instruction answers, when it answers a next state with the property. -/
theorem next_of_answers {o : Host.Outcome State Fault Refusal} {p : State → Bool} (h : answers o p = true) :
    ∃ t, o = .next t ∧ p t = true := by
  cases o with
  | next t => exact ⟨t, rfl, h⟩
  | fault f => cases h
  | refused r => cases h

def isDone {α : Type} (x : Rendered α) : Bool :=
  match x with
  | .done _ => true
  | _ => false

theorem done_of_isDone {α : Type} {x : Rendered α} (h : isDone x = true) : ∃ a, x = .done a := by
  cases x with
  | done a => exact ⟨a, rfl⟩
  | nonfinite r => cases h
  | stuck e => cases h

/-- The buffer a next state returned, as integers. -/
def returned (s : State) : Option (List Int) := s.response.map fun b => b.map BitVec.toInt

/-! ## WellFormed and encoding -/

theorem test_wellFormed_refuses_wide_frames : (Instr.pull 16777216).wellFormed = false := by decide +kernel
theorem test_wellFormed_refuses_wide_note : (Instr.noteOn 256 0).wellFormed = false := by decide +kernel
theorem test_wellFormed_refuses_wide_velocity : (Instr.noteOn 60 128).wellFormed = false := by decide +kernel
theorem test_wellFormed_accepts_largest :
    (Instr.pull 16777215).wellFormed = true ∧ (Instr.noteOn 255 127).wellFormed = true := by decide +kernel

/-- V-ENC-1, the words that decode. -/
theorem test_decode_commands :
    decode 0b00010000000000000000000000000000#32 = .ok .prime ∧
    decode 0b00100000000000000000000000000100#32 = .ok (.pull 4) ∧
    decode 0x20000000#32 = .ok (.pull 0) ∧ decode 0x20FFFFFF#32 = .ok (.pull 16777215) ∧
    decode 0b00110000000000000011110001111111#32 = .ok (.noteOn 60 127) ∧
    decode 0x3000C864#32 = .ok (.noteOn 200 100) ∧ decode 0x3000FF00#32 = .ok (.noteOn 255 0) := by
  decide +kernel

/-- V-ENC-1, the words that are ILLEGAL. -/
theorem test_decode_illegal :
    ([0x00000000#32, 0x10000001#32, 0x18000000#32, 0x21000004#32, 0x300045E4#32, 0x30014564#32,
      0x40000000#32, 0xF0000000#32, 0xFFFFFFFF#32].all fun w => (decode w).toOption == none) = true := by
  decide +kernel

/-- R88, the selector values. -/
theorem test_decode_selectors :
    [0, 1, 2, 3, 4, 5, 6, 7].map (decodeTableWord 8) =
      [some .alg0, some .alg1, some .alg2, some .alg3, some .alg4, none, none, none] := by
  decide +kernel

/-- V-ENC-2 and R89. -/
theorem test_assembler :
    assembleLine "PULL 4410 ; a tenth of a second".toList = .ok (some 0x2000113A#32) ∧
    assembleLine "NOTE_ON 69, 0x7F".toList = .ok (some 0x3000457F#32) ∧
    assembleLine "NOTE_ON 60, 128".toList = .error .operandTooLarge ∧
    assembleLine "PULL 16777216".toList = .error .operandTooLarge ∧
    assembleLine "prime".toList = .error .notACommand := by
  decide +kernel

/-- R64: the bytes of `NOTE_ON 60, 127`. -/
theorem test_link_bytes : wordBytes 0x30003C7F#32 = [0x7F#8, 0x3C#8, 0x00#8, 0x30#8] := by decide +kernel

/-! ## Numbers (V-HZ-2, V-NO-1, L1-CFG, V-OP-3, V-OP-8) -/

theorem test_fadd_loses_small_increments :
    fadd 0x4340000000000000#64 F64.one = 0x4340000000000000#64 ∧
    fadd 0x4330000000000000#64 0x3FD0000000000000#64 = 0x4330000000000000#64 := by decide +kernel

theorem test_velocity_levels :
    velocityLevel 100 = 0x3FE93264C993264D#64 ∧ velocityLevel 64 = 0x3FE0204081020408#64 ∧
    velocityLevel 1 = 0x3F80204081020408#64 := by decide +kernel

/-- L1-CFG: 901120 / 44100. -/
theorem test_phase_increment :
    fdiv (fmul (f64 2048) 0x407B800000000000#64) (f64 44100) = 0x40346EFDCB4A6B82#64 := by decide +kernel

theorem test_phase_offsets :
    phaseOffset shared1 8192 = 0x3FF0002000400080#64 ∧ phaseOffset shared1 (-32768) = 0xC010002000400080#64 ∧
    phaseOffset shared1 32767 = 0x4010000000000000#64 := by decide +kernel

/-- V-OP-4: ties of the table index. -/
theorem test_index_ties :
    roundIdx .even half = some 0 ∧ roundIdx .away half = some 1 ∧
    roundIdx .even 0xC004000000000000#64 = some (-2) ∧ roundIdx .away 0xC004000000000000#64 = some (-3) ∧
    floorMod (-3) 4 = 1 := by decide +kernel

/-- V-OP-5: -1.5 truncates to -1, and -0.0 to 0. -/
theorem test_trunc_toward_zero :
    trunc (fmul (f64 (-3)) half) = some (-1) ∧ trunc (fmul (f64 (-1000)) F64.posZero) = some 0 := by
  decide +kernel

/-- V-OP-8: the grouping of the gain. -/
theorem test_gain_grouping :
    trunc (fmul (f64 1000) (gain { op1' with cfg := { cfg1 with volume := 0x3FD3333333333333#64 } }
      0x3FD5555555555555#64)) = some 99 := by decide +kernel

/-! ## The envelope (V-ENV-1) -/

/-- a = 0, d = 3. -/
theorem test_envelope_decay :
    (List.range 5).map (fun j => (envAdvance (envAfter { op1' with cfg := { cfg1 with decay := 3 } } j)).1) =
      [F64.one, 0x3FE5555555555556#64, 0x3FD5555555555556#64, F64.posZero, F64.posZero] := by decide +kernel

/-- a = 2, d = 2: ENV_N after each call. -/
theorem test_envelope_counter :
    (List.range 7).map (fun j =>
      (envAfter { op1' with cfg := { cfg1 with attack := 2, decay := 2 } } (j + 1)).envN.toInt) =
      [1, 2, 3, 4, 5, -1, -1] := by decide +kernel

/-! ## Routing (L1-RT, V-RT-1) -/

theorem test_saturation :
    satSum2 shared1 [30000, -20000] [10000, -20000] = [32767, -32768] ∧
    satSum3 shared1 [30000] [30000] [-30000] = [30000] ∧
    satSum2 { shared1 with satMin := -32767 } [-20000] [-20000] = [-32767] := by decide +kernel

theorem test_pull_alg0 :
    answers (exec (.pull 4) (playing 0#3)) (fun t => returned t == some [-8192, -15360, 7168, 13312]) = true := by
  decide +kernel
theorem test_pull_alg1 :
    answers (exec (.pull 4) (playing 1#3)) (fun t => returned t == some [-8192, 15360, 7168, 6656]) = true := by
  decide +kernel
theorem test_pull_alg2 :
    answers (exec (.pull 4) (playing 2#3)) (fun t => returned t == some [32767, -30720, 28672, 26624]) = true := by
  decide +kernel
theorem test_pull_alg3 :
    answers (exec (.pull 4) (playing 3#3)) (fun t => returned t == some [24576, 0, 7168, 0]) = true := by
  decide +kernel
theorem test_pull_alg4 :
    answers (exec (.pull 4) (playing 4#3)) (fun t => returned t == some [24576, 32767, -21504, -32768]) = true := by
  decide +kernel

/-- The output that a routing leaves in the combiner. -/
def routed (s : State) : Option Buffer := s.combiner.bind fun c => c.vout

theorem test_alg0 :
    answers (exec .alg0 (waiting 0#3)) (fun t => routed t == some [-8192, -15360, 7168, 13312]) = true := by
  decide +kernel
theorem test_alg1 :
    answers (exec .alg1 (waiting 1#3)) (fun t => routed t == some [-8192, 15360, 7168, 6656]) = true := by
  decide +kernel
theorem test_alg2 :
    answers (exec .alg2 (waiting 2#3)) (fun t => routed t == some [32767, -30720, 28672, 26624]) = true := by
  decide +kernel
theorem test_alg3 :
    answers (exec .alg3 (waiting 3#3)) (fun t => routed t == some [24576, 0, 7168, 0]) = true := by
  decide +kernel
theorem test_alg4 :
    answers (exec .alg4 (waiting 4#3)) (fun t => routed t == some [24576, 32767, -21504, -32768]) = true := by
  decide +kernel

/-- V-RT-1: every operator after the PULL has PHASE 4.0, ENV_N 0 (the retrigger) and RESET 0. -/
theorem test_pull_retriggers_after_the_buffer :
    answers (exec (.pull 4) (playing 0#3)) (fun t => t.voices.all fun x =>
      [x.op1, x.op2, x.op3].all fun o =>
        o.phase == 0x4010000000000000#64 && o.envN == 0#34 && o.envCur == 0x3FEA000000000000#64 && !o.reset) =
      true := by decide +kernel

/-! ## Mixer, NOTE_ON, faults -/

/-- V-MIX-1. -/
theorem test_mix :
    mix 1 [[-7], [0]] = [-3] ∧ mix 1 [[-27218], [835], [21259]] = [-1708] ∧
    mix 1 [[1000], [1001], [-3], [0]] = [499] ∧ mix 1 [[-32768], [-32768]] = [-32768] := by decide +kernel

/-- V-RT-3: the detuned pitch 444.4. -/
theorem test_note_on_detunes :
    (voiceNoteOn 0x407B800000000000#64 F64.one
      (Voice.ofConfig shared1 VoiceConfig.initial)).op2.pitch = 0x407BC66666666666#64 := by decide +kernel

/-- L1-RR on two voices: RR after a hit on voice 1 is 0. -/
theorem test_note_on_rotates :
    answers (exec (.noteOn 60 127) { twoVoices with rr := 1#8 }) (fun t => t.rr == 0#8) = true := by
  decide +kernel

/-- V-FLT-2: BAD_ENCODING comes before PULL_BEFORE_PRIME. -/
theorem test_decode_before_protocol :
    answers (step { State.reset with host := [.command 0x21000000#32] }) (fun t => t.fault == 3#4) = true := by
  decide +kernel

/-- V-RT-2 and V-FLT-3: configurations that come out of reset faulted. -/
theorem test_reset_validation :
    validate { Config.initial with voices := [{ VoiceConfig.initial with alg := 5#3 }] } = .cfgAlg ∧
    validate { shared := { Config.initial.shared with polyphony := 0 },
               voices := [{ VoiceConfig.initial with alg := 5#3 }] } = .cfgParam ∧
    validate { shared := { Config.initial.shared with polyphony := 256 },
               voices := List.replicate 256 { VoiceConfig.initial with alg := 5#3 } } = .cfgParam ∧
    validate { Config.initial with shared := { Config.initial.shared with idxTie := .unlisted 2 } } = .cfgParam ∧
    validate { Config.initial with shared := { Config.initial.shared with commitMode := .unlisted 2 } } = .cfgParam ∧
    validate { Config.initial with
      voices := [{ VoiceConfig.initial with op3 := { cfg1 with decay := -1 } }] } = .cfgParam ∧
    validate { Config.initial with
      voices := [{ VoiceConfig.initial with op1 := { cfg1 with volume := 0x3FF8000000000000#64 } }] } =
      .cfgParam ∧
    validate Config.initial = .none := by decide +kernel

/-- V-OP-9: 1e308 overflows PHASE, and the third sample faults. -/
theorem test_nonfinite :
    answers (exec (.pull 3) { playing 4#3 with
      shared := { shared1 with wtLen := 1, wt := [5], sampleRate := 1 },
      voices := [mapOps (fun _ o => { o with pitch := 0x7FE1CCF385EBC8A0#64 }) (voice1 4#3)] })
      (fun t => t.fault == 7#4 && t.response == none) = true := by decide +kernel

/-- The instruction that withFetchWord places is the next to run. -/
theorem test_withFetchWord :
    answers (step (State.reset.withFetchWord 32 0x10000000)) (fun t => t.primed && t.response == some []) = true ∧
    answers (step (State.reset.withFetchWord 8 2)) (fun t => routed t == some [0]) = true := by decide +kernel

/-- R213: of PRIME, `PULL 1` and `PULL 2` only the PULLs' buffers are observed. -/
theorem test_pulls_are_observed :
    buffersReturned 3 { State.reset with
      host := [.command 0x10000000#32, .command 0x20000001#32, .command 0x20000002#32] } = [[0#16], [0#16, 0#16]] := by
  decide +kernel

/-- A faulted FMD renders no voice and takes the next word (R182, log 8). -/
theorem test_faulted_voice_is_dropped :
    answers (step { waiting 5#3 with fault := 7#4, host := [.command 0x20000001#32] })
      (fun t => t.combiner == none && t.host == [] && t.fault == 7#4) = true ∧
    answers (exec .alg3 { waiting 3#3 with fault := 7#4 }) (fun t => t.combiner == none && t.response == none) =
      true := by decide +kernel

/-! ## FIELD_RACY (V-HZ-1) -/

/-- V-HZ-1 after its first PULL, with `NOTE_ON 62, 127` issued during the second and op1's writes landing as given. -/
def torn (l : OpLanding) : State :=
  { playing 4#3 with
    shared := { shared1 with wt := [100, 1000, -100, -1000], commitMode := .fieldRacy }
    voices := [mapOps (fun k o => { o with
      cfg := { cfg1 with decay := 8, volume := if k = .op1 then F64.one else F64.posZero }
      phase := 0x4010000000000000#64
      reset := false }) (voice1 4#3)]
    host := [.during 0x30003E7F#32 { op1 := l, op2 := ⟨0, 0, 0⟩, op3 := ⟨0, 0, 0⟩ }] }

/-- (a) the PITCH write lands after op1's last micro-step, the RESET write after its end of buffer. -/
theorem test_torn_after :
    answers (exec (.pull 4) (torn ⟨15, 14, 0⟩)) (fun t => returned t == some [100, 875, -75, -625] &&
      t.voices.all fun x => x.op1.reset && x.op1.pitch == two) = true := by decide +kernel
/-- (b) it lands between op1's micro-steps i = 1 and i = 2; PHASE ends at 10.0. -/
theorem test_torn_between :
    answers (exec (.pull 4) (torn ⟨0, 12, 0⟩)) (fun t => returned t == some [100, 875, -75, 62] &&
      t.voices.all fun x => !x.op1.reset && x.op1.phase == 0x4024000000000000#64) = true := by decide +kernel
/-- (c) every write lands before op1's first micro-step. -/
theorem test_torn_before :
    answers (exec (.pull 4) (torn ⟨0, 0, 0⟩)) (fun t => returned t == some [100, -87, 75, -62]) = true := by
  decide +kernel

/-! ## Witnesses: a concrete state that meets the hypotheses of each statement -/

theorem toRat_one : toRat F64.one = 1 := by decide +kernel
theorem toRat_posZero : toRat F64.posZero = 0 := by decide +kernel

theorem unitLevel_one : UnitLevel F64.one := ⟨by decide +kernel, by simp [toRat_one], by simp [toRat_one]⟩
theorem unitLevel_posZero : UnitLevel F64.posZero :=
  ⟨by decide +kernel, by simp [toRat_posZero], by simp [toRat_posZero]⟩

theorem levelsOk_op1' : LevelsOk op1' :=
  { noteVol := unitLevel_one, envCur := unitLevel_posZero, terminal := fun h => absurd h (by decide +kernel),
    pitch := by decide +kernel, phase := by decide +kernel }

theorem envNOk_op1' : EnvNOk op1' := .inr ⟨by decide +kernel, by decide +kernel⟩

theorem opConfigOk_cfg1 : OpConfigOk cfg1 :=
  { attack := by decide +kernel, decay := by decide +kernel,
    volume := ⟨by decide +kernel, by simp [cfg1, toRat_one], by simp [cfg1, toRat_one]⟩,
    rate := by decide +kernel }

theorem farFromOverflow_op1' : FarFromOverflow op1' :=
  ⟨by decide +kernel, by simp [op1', toRat_posZero], by decide +kernel, by
    simpa [op1', toRat_one] using one_le_pow₀ (M₀ := ℚ) (a := 2) (n := 900) (by norm_num)⟩

theorem inOrder_playing : InOrder (playing 3#3) :=
  { code := by decide +kernel, legal := fun _ => by unfold Legal; decide +kernel,
    voice := fun _ => by decide +kernel,
    envN := fun _ x hx k => by
      rw [List.mem_singleton.mp hx]
      cases k <;> exact envNOk_op1' }

theorem inLevel_playing : InLevel (playing 3#3) := fun _ x hx k => by
  rw [List.mem_singleton.mp hx]
  cases k <;> exact levelsOk_op1'

theorem inOrder_waiting : InOrder (waiting 3#3) :=
  { code := inOrder_playing.code, legal := inOrder_playing.legal, voice := inOrder_playing.voice,
    envN := inOrder_playing.envN }

theorem inLevel_waiting : InLevel (waiting 3#3) := inLevel_playing

/-- Both at once for a PULL that is done. -/
theorem pull_playing : ∃ t, exec (.pull 2) (playing 3#3) = .next t ∧ t.fault = 0#4 := by
  obtain ⟨t, h, hp⟩ := next_of_answers
    (by decide +kernel : answers (exec (.pull 2) (playing 3#3)) (fun t => t.fault == 0#4) = true)
  exact ⟨t, h, by simpa using hp⟩

theorem witness_DecodeAgreesWithOpcodeTable :
    (0x20FFFFFF#32 &&& 0xFF000000#32 = 0x20000000#32) ∧ (0x3000FF7F#32 &&& 0xFFFF0080#32 = 0x30000000#32) ∧
    (0x21000000#32 ≠ 0x10000000#32 ∧ 0x21000000#32 &&& 0xFF000000#32 ≠ 0x20000000#32 ∧
      0x21000000#32 &&& 0xFFFF0080#32 ≠ 0x30000000#32) := by decide +kernel

theorem witness_WrittenWordsDecode : 5 ≤ (5#3).toNat := by decide +kernel

theorem witness_DecodeOfEncodeIsIdentity : (Instr.noteOn 255 127).wellFormed = true := by decide +kernel

theorem witness_EncodeOfDecodeIsIdentity : decode 0x3000FF7F#32 = .ok (.noteOn 255 127) := by decide +kernel

theorem witness_StepRunsTheDecodedCommand :
    voiceWaiting { State.reset with host := [.command 0x10000000#32] } = none ∧
    voiceWaiting { State.reset with host := [.during 0x10000000#32 landAtStart] } = none ∧
    decode 0x10000000#32 = .ok .prime := by decide +kernel

theorem witness_StepRunsTheSelectedRouting :
    ∃ c x, (waiting 2#3).fault = 0#4 ∧ (waiting 2#3).combiner = some c ∧ c.vout = none ∧ (waiting 2#3).voices[c.voice]? = some x ∧
      decodeSelector x.alg = .ok .alg2 :=
  ⟨_, _, rfl, rfl, rfl, rfl, by decide +kernel⟩

theorem witness_PlacedInstructionRunsNext :
    decodeTableWord 32 0x20000000 = some (.pull 0) ∧ decodeTableWord 8 4 = some .alg4 ∧
    State.reset.fault = 0#4 ∧ State.reset.voices ≠ [] := by decide +kernel

theorem witness_FaultedMachineIgnoresEveryWord :
    ∃ s t : State, s.fault ≠ 0#4 ∧ s.host = [.command 0x20000001#32] ∧ step s = .next t := by
  obtain ⟨t, h, -⟩ := next_of_answers (by decide +kernel :
    answers (step { playing 3#3 with fault := 7#4, host := [.command 0x20000001#32] }) (fun _ => true) = true)
  exact ⟨_, t, by decide +kernel, rfl, h⟩

theorem witness_IllegalWordRaisesBadEncoding :
    ∃ e, State.reset.fault = 0#4 ∧ voiceWaiting { State.reset with host := [.command 0#32] } = none ∧
      decode 0#32 = .error e :=
  ⟨.reservedOp 0#4, by decide +kernel, by decide +kernel, by decide +kernel⟩

theorem witness_ProtocolFaultsChangeOnlyFault :
    (State.reset.fault = 0#4 ∧ State.reset.primed = false) ∧
    ((playing 3#3).fault = 0#4 ∧ (playing 3#3).primed = true ∧ (playing 3#3).shared.maxFrames < 4097) := by
  decide +kernel

theorem witness_FaultPriorityOrder :
    (∃ s t, voiceWaiting s = none ∧ s.host = [.command 0x21000000#32] ∧ s.fault = 0#4 ∧ step s = .next t) ∧
    (∃ s t, voiceWaiting s = none ∧ s.host = [.command 0x10000000#32] ∧ s.fault = 0#4 ∧ step s = .next t) ∧
    (∃ s t, voiceWaiting s = none ∧ s.host = [.command 0x20001000#32] ∧ s.fault = 0#4 ∧ s.primed = true ∧
      ¬(4096 = 0 ∨ s.shared.maxFrames < 4096) ∧ (∃ f, decode 0x20001000#32 = .ok (.pull f)) ∧
      ∃ f, exec (.pull f) { s with host := [] } = .next t) := by
  obtain ⟨t1, h1, -⟩ := next_of_answers (by decide +kernel :
    answers (step { State.reset with host := [.command 0x21000000#32] }) (fun _ => true) = true)
  obtain ⟨t2, h2, -⟩ := next_of_answers (by decide +kernel :
    answers (step { State.reset with host := [.command 0x10000000#32] }) (fun _ => true) = true)
  obtain ⟨t3, h3, -⟩ := pull_playing
  exact ⟨⟨_, t1, by decide +kernel, rfl, by decide +kernel, h1⟩,
    ⟨_, t2, by decide +kernel, rfl, by decide +kernel, h2⟩,
    ⟨{ playing 3#3 with host := [.command 0x20001000#32] }, t3, by decide +kernel, rfl, by decide +kernel,
      by decide +kernel, by decide +kernel, ⟨4096, by decide +kernel⟩, ⟨2, h3⟩⟩⟩

/-- A state whose first position is +inf. -/
def infPhase : State := { playing 3#3 with voices := [{ voice1 3#3 with op3 := { op1' with phase := posInf } }] }

theorem witness_NonfinitePhaseFaultsThePull :
    ∃ x xs, infPhase.fault = 0#4 ∧ infPhase.primed = true ∧ 1 ≤ infPhase.shared.maxFrames ∧
      infPhase.shared.commitMode = .bufferAtomic ∧ infPhase.polyphony = infPhase.voices.length ∧
      infPhase.voices = x :: xs ∧ isFinite x.op3.phase = false :=
  ⟨_, _, by decide +kernel, by decide +kernel, by decide +kernel, by decide +kernel, by decide +kernel, rfl, by decide +kernel⟩

theorem witness_NonfiniteFaultFrame :
    ∃ t, infPhase.fault = 0#4 ∧ infPhase.shared.commitMode = .bufferAtomic ∧
      exec (.pull 1) infPhase = .next t ∧ t.fault = 7#4 := by
  obtain ⟨t, h, hp⟩ := next_of_answers
    (by decide +kernel : answers (exec (.pull 1) infPhase) (fun t => t.fault == 7#4) = true)
  exact ⟨t, by decide +kernel, by decide +kernel, h, by simpa using hp⟩

theorem witness_ResetLoadsTheRecord :
    voiceWaiting { playing 3#3 with host := [.reset Config.initial] } = none := by decide +kernel

theorem sharedOk_initial : SharedOk Config.initial.shared :=
  { sampleRate := by decide +kernel, wtLen := by decide +kernel, wt := by decide +kernel,
    commitMode := .inl rfl, idxTie := .inl rfl,
    noteFreq := fun n f h => by simp [noteLookup, Config.initial] at h,
    noteKeys := fun n _ => by simp [noteLookup, Config.initial],
    maxFrames := by decide +kernel, initPitch := by decide +kernel,
    initNoteVol := unitLevel_posZero, satMin := .inl rfl }

theorem opConfigOk_initial {r : F64} (h : isFinite r = true) : OpConfigOk (OpConfig.initial r) :=
  { attack := by simp [OpConfig.initial], decay := by simp [OpConfig.initial],
    volume := unitLevel_one, rate := h }

theorem witness_ResetValidatesTheRecord :
    (¬PolyphonyOk { Config.initial with shared := { Config.initial.shared with polyphony := 0 } }) ∧
    (PolyphonyOk { Config.initial with voices := [{ VoiceConfig.initial with alg := 5#3 }] } ∧
      ¬AlgOk { Config.initial with voices := [{ VoiceConfig.initial with alg := 5#3 }] }) ∧
    (¬RangesOk { Config.initial with shared := { Config.initial.shared with idxTie := .unlisted 2 } }) ∧
    (PolyphonyOk Config.initial ∧ AlgOk Config.initial ∧ RangesOk Config.initial ∧ Complete Config.initial) := by
  refine ⟨by unfold PolyphonyOk; decide +kernel, ⟨by unfold PolyphonyOk; decide +kernel, by unfold AlgOk; decide +kernel⟩,
    fun h => absurd h.1.idxTie (by simp), by unfold PolyphonyOk; decide +kernel, by unfold AlgOk; decide +kernel,
    ⟨sharedOk_initial, fun v hv => ?_⟩, by unfold Complete; decide +kernel⟩
  rw [List.mem_singleton.mp (List.mem_of_mem_take hv)]
  exact ⟨opConfigOk_initial (by decide +kernel), opConfigOk_initial (by decide +kernel),
    opConfigOk_initial (by decide +kernel)⟩

theorem inOrder_playing_host (h : List HostEvent) : InOrder { playing 3#3 with host := h } :=
  { code := inOrder_playing.code, legal := inOrder_playing.legal, voice := inOrder_playing.voice,
    envN := inOrder_playing.envN }

theorem witness_StepKeepsTheMachineInOrder :
    ∃ s t, InOrder s ∧ InLevel s ∧ voiceWaiting s = none ∧ step s = .next t ∧ t.fault = 0#4 := by
  obtain ⟨t, h, hp⟩ := next_of_answers (by decide +kernel :
    answers (step { playing 3#3 with host := [.command 0x20000002#32] }) (fun t => t.fault == 0#4) = true)
  exact ⟨{ playing 3#3 with host := [.command 0x20000002#32] }, t, inOrder_playing_host _, inLevel_playing,
    by decide +kernel, h, by simpa using hp⟩

theorem witness_NoInstructionChangesTheConfiguration : ∃ t, exec (.pull 2) (playing 3#3) = .next t := by
  obtain ⟨t, h, -⟩ := pull_playing
  exact ⟨t, h⟩

theorem witness_PrimedIsWrittenOnlyByPrime : ∃ t, exec .prime State.reset = .next t ∧ t.primed ≠ State.reset.primed := by
  obtain ⟨t, h, hp⟩ := next_of_answers
    (by decide +kernel : answers (exec .prime State.reset) (fun t => t.primed) = true)
  exact ⟨t, h, by simp [hp, State.reset, State.resetWith]⟩

theorem witness_RoundRobinIsWrittenOnlyByAHit :
    ∃ t, twoVoices.shared.commitMode = .bufferAtomic ∧ exec (.noteOn 60 127) twoVoices = .next t ∧
      t.rr ≠ twoVoices.rr := by
  obtain ⟨t, h, hp⟩ := next_of_answers
    (by decide +kernel : answers (exec (.noteOn 60 127) twoVoices) (fun t => t.rr != twoVoices.rr) = true)
  exact ⟨t, by decide +kernel, h, by simpa using hp⟩

theorem witness_PrimePerformsTheHandshake :
    ({ playing 3#3 with fault := 1#4 } : State).fault ≠ 0#4 ∧ (playing 3#3).primed = true ∧
    State.reset.fault = 0#4 ∧ State.reset.primed = false := by decide +kernel

theorem witness_NoteOnStartsTheNoteOnVoiceRR :
    (noteLookup twoVoices.shared 61 = none) ∧ (noteLookup twoVoices.shared 62 = some two) ∧
    (1#8).toNat < twoVoices.polyphony ∧
    ∃ x, ({ twoVoices with rr := 1#8 } : State).voices[(1#8).toNat]? = some x :=
  ⟨by decide +kernel, by decide +kernel, by decide +kernel, _, rfl⟩

theorem witness_UnmappedNotesChangeNothing :
    (playing 3#3).fault = 0#4 ∧ noteLookup (playing 3#3).shared 61 = none ∧ Legal (playing 3#3).config :=
  ⟨by decide +kernel, by decide +kernel, inOrder_playing.legal (by decide +kernel)⟩

theorem witness_HitsRotateOverTheVoices :
    twoVoices.fault = 0#4 ∧ twoVoices.rr.toNat < twoVoices.polyphony ∧ twoVoices.polyphony ≤ 255 ∧
    twoVoices.polyphony = twoVoices.voices.length ∧ ∀ p ∈ [(60, 127), (62, 64), (60, 1)], ∃ f, noteLookup twoVoices.shared p.1 = some f := by
  refine ⟨by decide +kernel, by decide +kernel, by decide +kernel, by decide +kernel, fun p hp => ?_⟩
  have h : (noteLookup twoVoices.shared p.1).isSome = true :=
    (by decide +kernel : ∀ p ∈ [(60, 127), (62, 64), (60, 1)], (noteLookup twoVoices.shared p.1).isSome = true) p hp
  exact Option.isSome_iff_exists.mp h

/-- The two ends of the range of velocities, and two neighbours at its top. -/
theorem witness_VelocityLevelsLieInUnitRange : 0 ≤ 127 ∧ 127 ≤ 127 ∧ 126 < 127 := by decide +kernel

theorem witness_EnvelopeStepFollowsItsBranches :
    ({ op1' with envN := -1#34 } : Operator).envN.toInt = -1 ∧
    (op1'.envN.toInt = 0 ∧ op1'.envN.toInt ≤ op1'.cfg.attack) ∧
    (({ op1' with envN := 16#34 } : Operator).envN.toInt = 16 ∧ 0 < cfg1.decay ∧ 16 - cfg1.attack ≤ cfg1.decay) ∧
    (({ op1' with envN := 17#34 } : Operator).envN.toInt = 17 ∧ ¬(17 - cfg1.attack ≤ cfg1.decay)) := by
  decide +kernel

theorem witness_EnvelopeSequenceFromZero :
    op1'.envN = 0#34 ∧ op1'.cfg.attack = (0 : Nat) ∧ op1'.cfg.decay = (16 : Nat) ∧ op1'.cfg.attack < 2 ^ 32 ∧ op1'.cfg.decay < 2 ^ 32 := by decide +kernel

/-- An operator with a rising ramp: ATTACK = 3. -/
def rising : Operator := { op1' with cfg := { cfg1 with attack := 3 } }

/-- The first clause, and each clause of the second: j = 2 is the last rise of an attack of 3, j = 3 and j = 18 the first and
the last fall of a decay of 16, j = 20 is past the end. -/
theorem witness_EnvelopeIsBoundedAndMonotonic :
    (rising.cfg.attack = 3 ∧ rising.cfg.decay = 16 ∧ rising.cfg.decay < 2 ^ 32 ∧ rising.envN = 0#34 ∧ EnvNOk rising) ∧
    (2 : Int) < rising.cfg.attack ∧ rising.cfg.attack ≤ 3 ∧ (18 : Int) < rising.cfg.attack + rising.cfg.decay ∧
    rising.cfg.attack + rising.cfg.decay < 20 := by
  refine ⟨⟨rfl, rfl, by decide +kernel, rfl, .inr (by decide +kernel)⟩, ?_⟩
  decide +kernel

theorem witness_EndOfBufferRetriggersTheEnvelope :
    op1'.reset = true ∧ ({ op1' with reset := false } : Operator).reset = false := by decide +kernel

theorem witness_PhaseOffsetIsRoundedOnce : 1 ≤ shared1.wtLen ∧ shared1.wtLen ≤ 2 ^ 24 := by decide +kernel

theorem witness_TableReadsAreInRange : 1 ≤ shared1.wtLen ∧ shared1.wtLen = shared1.wt.length := by decide +kernel

theorem inSampleRange_shared1 : InSampleRange shared1.wt := by
  unfold InSampleRange
  decide +kernel

/-- At ENV_N = 0 with ATTACK = 0 the gain is 1.0. -/
theorem witness_OperatorOutputIsInRange :
    (1 ≤ shared1.wtLen ∧ shared1.idxTie.isListed = true) ∧
    fmul (fmul op1'.noteVol op1'.cfg.volume) (envAdvance op1').1 = F64.one ∧ ∃ y o', InSampleRange shared1.wt ∧ UnitLevel op1'.noteVol ∧ OpConfigOk op1'.cfg ∧ EnvNOk op1' ∧
      sampleStep shared1 ⟨0, .op1⟩ 0 op1' = .done (y, o') := by
  obtain ⟨⟨y, o'⟩, h⟩ := done_of_isDone (by decide +kernel : isDone (sampleStep shared1 ⟨0, .op1⟩ 0 op1') = true)
  exact ⟨by decide +kernel, by decide +kernel, y, o', inSampleRange_shared1, unitLevel_one, opConfigOk_cfg1, envNOk_op1', h⟩

theorem witness_SilentOperatorsRenderZeros :
    (∃ out o', opRender ⟨shared1, []⟩ ⟨0, .op1⟩ [0, 5] { op1' with noteVol := F64.posZero } = .done (out, o')) ∧
    ∃ out o', EnvNOk { op1' with envN := -1#34 } ∧
      opRender ⟨shared1, []⟩ ⟨0, .op1⟩ [0, 5] { op1' with envN := -1#34 } = .done (out, o') := by
  obtain ⟨⟨out, o⟩, h⟩ := done_of_isDone (by decide +kernel :
    isDone (opRender ⟨shared1, []⟩ ⟨0, .op1⟩ [0, 5] { op1' with noteVol := F64.posZero }) = true)
  obtain ⟨⟨out', o'⟩, h'⟩ := done_of_isDone (by decide +kernel :
    isDone (opRender ⟨shared1, []⟩ ⟨0, .op1⟩ [0, 5] { op1' with envN := -1#34 }) = true)
  exact ⟨⟨out, o, h⟩, out', o', .inl (by decide +kernel), h'⟩

theorem witness_LargePhasesLoseSmallIncrements :
    isFinite 0x4340000000000000#64 = true ∧ isFinite half = true ∧ 2 ^ 53 ≤ toRat 0x4340000000000000#64 ∧
    0 ≤ toRat half ∧ toRat half < 1 := by decide +kernel

theorem witness_FiniteOperands :
    isFinite F64.one = true ∧ isFinite half = true ∧ toRat half ≠ 0 := by decide +kernel

theorem witness_IntegerConversionIsExact : |(9007199254740991 : Int)| < 2 ^ 53 := by norm_num

/-- Both carriers of a routing are rendered in the small state. -/
theorem carriers_done {m2 : Buffer} {m1 : Buffer → Buffer} {vout : Buffer → Buffer → Buffer} {alg : BitVec 3}
    (h : isDone (renderCarriers ⟨shared1, []⟩ 0 m2 m1 vout (voice1 alg)) = true) :
    ∃ out2 o2 out1 o1, opRender ⟨shared1, []⟩ ⟨0, .op2⟩ m2 (voice1 alg).op2 = .done (out2, o2) ∧
      opRender ⟨shared1, []⟩ ⟨0, .op1⟩ (m1 out2) (voice1 alg).op1 = .done (out1, o1) := by
  obtain ⟨⟨b, y⟩, ha⟩ := done_of_isDone h
  obtain ⟨out2, o2, out1, o1, h2, h1, -⟩ := renderCarriers_eq_done.mp ha
  exact ⟨out2, o2, out1, o1, h2, h1⟩

theorem witness_combiner (alg : BitVec 3) :
    ∃ c, (waiting alg).fault = 0#4 ∧ (waiting alg).combiner = some c ∧ c.overlaps = [] ∧ (waiting alg).voices[c.voice]? = some (voice1 alg) ∧
      c.out3 = [8192, 15360, -7168, -13312] :=
  ⟨_, rfl, rfl, rfl, rfl, rfl⟩

theorem witness_Alg0IsTheSerialChain :
    ∃ out2 o2 out1 o1,
      opRender ⟨shared1, []⟩ ⟨0, .op2⟩ [8192, 15360, -7168, -13312] (voice1 0#3).op2 = .done (out2, o2) ∧
      opRender ⟨shared1, []⟩ ⟨0, .op1⟩ out2 (voice1 0#3).op1 = .done (out1, o1) :=
  carriers_done (m1 := fun b => b) (vout := fun a _ => a) (by decide +kernel)

theorem witness_Alg1SumsOp3AndOp2IntoOp1 :
    ∃ out2 o2 out1 o1,
      opRender ⟨shared1, []⟩ ⟨0, .op2⟩ (List.replicate 4 0) (voice1 1#3).op2 = .done (out2, o2) ∧
      opRender ⟨shared1, []⟩ ⟨0, .op1⟩
        (List.zipWith (fun p q => min (max (p + q) shared1.satMin) 32767) [8192, 15360, -7168, -13312] out2)
        (voice1 1#3).op1 = .done (out1, o1) :=
  carriers_done (vout := fun a _ => a)
    (m1 := fun b => List.zipWith (fun p q => min (max (p + q) shared1.satMin) 32767) [8192, 15360, -7168, -13312] b)
    (by decide +kernel)

theorem witness_Alg2ModulatesBothCarriers :
    ∃ out2 o2 out1 o1,
      opRender ⟨shared1, []⟩ ⟨0, .op2⟩ [8192, 15360, -7168, -13312] (voice1 2#3).op2 = .done (out2, o2) ∧
      opRender ⟨shared1, []⟩ ⟨0, .op1⟩ [8192, 15360, -7168, -13312] (voice1 2#3).op1 = .done (out1, o1) :=
  carriers_done (m1 := fun _ => [8192, 15360, -7168, -13312]) (vout := fun a _ => a) (by decide +kernel)

theorem witness_Alg3ModulatesOp2Only :
    ∃ out2 o2 out1 o1,
      opRender ⟨shared1, []⟩ ⟨0, .op2⟩ [8192, 15360, -7168, -13312] (voice1 3#3).op2 = .done (out2, o2) ∧
      opRender ⟨shared1, []⟩ ⟨0, .op1⟩ (List.replicate 4 0) (voice1 3#3).op1 = .done (out1, o1) :=
  carriers_done (m1 := fun _ => List.replicate 4 0) (vout := fun a _ => a) (by decide +kernel)

theorem witness_Alg4AddsAllThree :
    ∃ out2 o2 out1 o1,
      opRender ⟨shared1, []⟩ ⟨0, .op2⟩ (List.replicate 4 0) (voice1 4#3).op2 = .done (out2, o2) ∧
      opRender ⟨shared1, []⟩ ⟨0, .op1⟩ (List.replicate 4 0) (voice1 4#3).op1 = .done (out1, o1) :=
  carriers_done (m1 := fun _ => List.replicate 4 0) (vout := fun a _ => a) (by decide +kernel)

theorem witness_EveryRoutingCompletes :
    ∃ c x, InOrder (waiting 3#3) ∧ InLevel (waiting 3#3) ∧ (waiting 3#3).fault = 0#4 ∧
      (waiting 3#3).combiner = some c ∧ c.overlaps = [] ∧ (waiting 3#3).voices[c.voice]? = some x ∧
      (∀ k, FarFromOverflow (voiceOp x k)) ∧ InSampleRange c.out3 ∧ c.out3.length < 2 ^ 24 := by
  refine ⟨_, voice1 3#3, inOrder_waiting, inLevel_waiting, by decide +kernel, rfl, rfl, rfl, fun k => ?_, ?_,
    by decide +kernel⟩
  · cases k <;> exact farFromOverflow_op1'
  · unfold InSampleRange
    decide +kernel

theorem witness_VoiceRenderStartsWithOp3 :
    ((voice1 4#3).alg, routeAlg4) ∈
      [(0#3, routeAlg0), (1#3, routeAlg1), (2#3, routeAlg2), (3#3, routeAlg3), (4#3, routeAlg4)] := by
  simp [voice1]

theorem witness_RoutingsStopWithoutAVoice :
    State.reset.combiner = none ∧
    ∃ c, ({ waiting 3#3 with fault := 7#4 } : State).combiner = some c ∧
      ({ waiting 3#3 with fault := 7#4 } : State).fault ≠ 0#4 :=
  ⟨by decide +kernel, _, rfl, by decide +kernel⟩

theorem witness_MixIsTheTruncatedMean :
    (∀ b ∈ [[-32768, 5], [7, 32767]], b.length = 2) ∧ (∀ b ∈ [[-32768, 5], [7, 32767]], InSampleRange b) := by
  unfold InSampleRange
  decide +kernel

theorem witness_PullReturnsTheMixOfItsVoices :
    ∃ t, (playing 3#3).shared.commitMode = .bufferAtomic ∧ exec (.pull 2) (playing 3#3) = .next t ∧
      t.fault = 0#4 := by
  obtain ⟨t, h, hp⟩ := pull_playing
  exact ⟨t, by decide +kernel, h, hp⟩

/-- In FIELD_RACY with an unmapped NOTE_ON during the PULL: nothing overlaps. -/
theorem witness_PullAdvancesEveryOperator :
    ∃ t, (overlapsOf { torn ⟨0, 0, 0⟩ with host := [.during 0x30003D7F#32 landAtStart] }).1 = [] ∧
      exec (.pull 4) { torn ⟨0, 0, 0⟩ with host := [.during 0x30003D7F#32 landAtStart] } = .next t ∧
      t.fault = 0#4 := by
  obtain ⟨t, h, hp⟩ := next_of_answers (by decide +kernel :
    answers (exec (.pull 4) { torn ⟨0, 0, 0⟩ with host := [.during 0x30003D7F#32 landAtStart] })
      (fun t => t.fault == 0#4) = true)
  exact ⟨t, by decide +kernel, h, by simpa using hp⟩

theorem witness_PullCompletes :
    InOrder (playing 3#3) ∧ InLevel (playing 3#3) ∧ (playing 3#3).fault = 0#4 ∧ (playing 3#3).primed = true ∧
    1 ≤ 4096 ∧ 4096 ≤ (playing 3#3).shared.maxFrames ∧ (playing 3#3).shared.commitMode = .bufferAtomic ∧
    voiceWaiting (playing 3#3) = none ∧ ∀ x ∈ (playing 3#3).voices, ∀ k, FarFromOverflow (voiceOp x k) := by
  refine ⟨inOrder_playing, inLevel_playing, by decide +kernel, by decide +kernel, by decide +kernel,
    by decide +kernel, by decide +kernel, by decide +kernel, fun x hx k => ?_⟩
  rw [List.mem_singleton.mp hx]
  cases k <;> exact farFromOverflow_op1'

theorem witness_OverlappingWritesLandByTheEnd :
    (∃ o ∈ (overlapsOf (torn ⟨15, 14, 99⟩)).1, o.voice = 0) ∧
    ∃ t x, (torn ⟨15, 14, 99⟩).shared.commitMode = .fieldRacy ∧ (torn ⟨15, 14, 99⟩).fault = 0#4 ∧
      exec (.pull 4) (torn ⟨15, 14, 99⟩) = .next t ∧ t.fault = 0#4 ∧
      (landOverlaps (overlapsOf (torn ⟨15, 14, 99⟩)).1 (torn ⟨15, 14, 99⟩).voices)[0]? = some x := by
  obtain ⟨t, h, hp⟩ := next_of_answers
    (by decide +kernel : answers (exec (.pull 4) (torn ⟨15, 14, 99⟩)) (fun t => t.fault == 0#4) = true)
  obtain ⟨x, hx⟩ := Option.isSome_iff_exists.mp (by decide +kernel :
    ((landOverlaps (overlapsOf (torn ⟨15, 14, 99⟩)).1 (torn ⟨15, 14, 99⟩).voices)[0]?).isSome = true)
  exact ⟨by decide +kernel, t, x, by decide +kernel, by decide +kernel, h, by simpa using hp, hx⟩

/-- The clauses on RR and on the host's events: RR is the last voice, and one hit overlaps with nothing after it. -/
theorem witness_OverlappingWritesLandByTheEnd_rr :
    (torn ⟨15, 14, 99⟩).rr.toNat + 1 = (torn ⟨15, 14, 99⟩).polyphony ∧ (torn ⟨15, 14, 99⟩).polyphony ≤ 255 ∧
    (∃ o, (overlapsOf (torn ⟨15, 14, 99⟩)).1[0]? = some o) ∧
    (torn ⟨15, 14, 99⟩).host = [(0x30003E7F#32, NoteLanding.mk ⟨15, 14, 99⟩ ⟨0, 0, 0⟩ ⟨0, 0, 0⟩)].map
      (fun p => .during p.1 p.2) ++ [] ∧
    decode 0x30003E7F#32 = .ok (.noteOn 62 127) :=
  ⟨by decide +kernel, by decide +kernel, ⟨_, rfl⟩, by decide +kernel, by decide +kernel⟩

/-- L1-RR during a PULL: with P = 2 and RR = 1, of a hit, a miss and a hit the hits go to voices 1 and 0, and RR ends
at 1. -/
theorem test_overlaps_rotate :
    (let r := overlapsOf { twoVoices with
        shared := { twoVoices.shared with commitMode := .fieldRacy }, rr := 1#8
        host := [.during 0x30003C7F#32 landAtStart, .during 0x30003D7F#32 landAtStart,
          .during 0x30003E7F#32 landAtStart] }
     (r.1.map fun o => o.voice) = [1, 0] ∧ r.2.1 = 1#8 ∧ r.2.2 = []) := by decide +kernel

theorem witness_OverlapAtTheStartIsNoteOnFirst :
    (torn ⟨0, 0, 0⟩).shared.commitMode = .fieldRacy ∧ (torn ⟨0, 0, 0⟩).fault = 0#4 ∧
    (torn ⟨0, 0, 0⟩).primed = true ∧ 4 ≤ (torn ⟨0, 0, 0⟩).shared.maxFrames ∧
    decode 0x30003E7F#32 = .ok (.noteOn 62 127) ∧ noteLookup (torn ⟨0, 0, 0⟩).shared 62 = some two ∧
    (torn ⟨0, 0, 0⟩).rr.toNat < (torn ⟨0, 0, 0⟩).polyphony ∧
    (torn ⟨0, 0, 0⟩).polyphony = (torn ⟨0, 0, 0⟩).voices.length := by decide +kernel

end Sys2Proof.Tests
end

section
/-! PROOFS. Every rendering and every field write leaves the control registers as they are (R7, R33). -/

namespace Sys2Proof.Machine

@[simp] theorem landDue_cfg (t : Nat) (p : PendingWrites) (o : Operator) : (landDue t p o).1.cfg = o.cfg := rfl

@[simp] theorem endOfBuffer_cfg (o : Operator) : (endOfBuffer o).cfg = o.cfg := by
  rcases endOfBuffer_cases o with ⟨-, h⟩ | ⟨-, h⟩ <;> rw [h]

/-- R126 writes no control register. -/
theorem renderSamples_cfg {g : GlobalConfig} {r : OpRef} {m : Buffer} :
    ∀ {p : PendingWrites} {t : Nat} {o o' : Operator} {out : Buffer},
      renderSamples g r p t m o = .done (out, o') → o'.cfg = o.cfg := by
  induction m with
  | nil =>
    intro p t o o' out h
    simp only [renderSamples, Rendered.done.injEq, Prod.mk.injEq] at h
    simp [← h.2]
  | cons x xs ih =>
    intro p t o o' out h
    obtain ⟨y, o1, ys, hstep, hrest, -⟩ := renderSamples_cons_eq_done.mp h
    calc o'.cfg = o1.cfg := ih hrest
      _ = (landDue t p o).1.cfg := (sampleStep_frame hstep).1
      _ = o.cfg := landDue_cfg t p o

theorem opRender_cfg {c : RenderContext} {r : OpRef} {m out : Buffer} {o o' : Operator}
    (h : opRender c r m o = .done (out, o')) : o'.cfg = o.cfg :=
  renderSamples_cfg h

/-- A routing datapath that keeps ALG[v] and the control registers of the voice it renders. -/
def KeepsConfig (route : Routing) : Prop :=
  ∀ c v out3 x b y, route c v out3 x = .done (b, y) → y.config = x.config

/-- ALG0 to ALG4 write no control register: each renders operators 2 and 1 and nothing else. -/
theorem renderCarriers_config {c : RenderContext} {v : Nat} {m2 : Buffer} {m1 : Buffer → Buffer}
    {vout : Buffer → Buffer → Buffer} {x y : Voice} {b : Buffer}
    (h : renderCarriers c v m2 m1 vout x = .done (b, y)) : y.config = x.config := by
  obtain ⟨out2, o2, out1, o1, h2, h1, -, rfl⟩ := renderCarriers_eq_done.mp h
  simp [Voice.config, opRender_cfg h2, opRender_cfg h1]

/-- Whichever routing ALG[v] selects (R141). -/
theorem routeSelected_keepsConfig : KeepsConfig routeSelected := by
  intro c v out3 x b y h
  unfold routeSelected at h
  split at h
  · exact renderCarriers_config h
  · exact renderCarriers_config h
  · exact renderCarriers_config h
  · exact renderCarriers_config h
  · exact renderCarriers_config h
  · cases h

theorem voiceRender_config {c : RenderContext} {v f : Nat} {x y : Voice} {b : Buffer}
    (h : voiceRender c v f x = .done (b, y)) : y.config = x.config := by
  obtain ⟨⟨out3, o3⟩, h3, hroute⟩ := Rendered.andThen_eq_done.mp h
  rw [routeSelected_keepsConfig _ _ _ _ _ _ hroute]
  simp [Voice.config, opRender_cfg h3]

theorem renderVoices_config {c : RenderContext} {f : Nat} {xs : List Voice} :
    ∀ {v : Nat} {ys : List Voice} {bs : List Buffer},
      renderVoices c f v xs = .done (bs, ys) → ys.map Voice.config = xs.map Voice.config := by
  induction xs with
  | nil =>
    intro v ys bs h
    simp only [renderVoices, Rendered.done.injEq, Prod.mk.injEq] at h
    rw [← h.2]
  | cons x xs ih =>
    intro v ys bs h
    obtain ⟨b, y, bs', ys', hx, hxs, -, rfl⟩ := renderVoices_cons_eq_done.mp h
    simp [voiceRender_config hx, ih hxs]

@[simp] theorem voiceNoteOn_config (p vol : F64) (v : Voice) : (voiceNoteOn p vol v).config = v.config :=
  config_mapOps v fun _ _ => rfl

/-- A change of one voice that keeps its configuration keeps the record. -/
theorem map_config_modify {f : Voice → Voice} (vs : List Voice) (v : Nat) (h : ∀ x, (f x).config = x.config) :
    (vs.modify v f).map Voice.config = vs.map Voice.config := by
  refine List.ext_getElem? fun j => ?_
  rw [List.getElem?_map, List.getElem?_map, List.getElem?_modify]
  cases vs[j]? with
  | none => rfl
  | some x => by_cases hj : v = j <;> simp [hj, h]

/-- A voice replaced by one of the same configuration keeps the record. -/
theorem map_config_set {vs : List Voice} {v : Nat} {x y : Voice} (hx : vs[v]? = some x)
    (h : y.config = x.config) : (vs.set v y).map Voice.config = vs.map Voice.config := by
  obtain ⟨hv, rfl⟩ := List.getElem?_eq_some_iff.mp hx
  have hold : vs[v].config = (vs.map Voice.config)[v]'(by simpa using hv) := by simp
  rw [List.map_set, h, hold, List.set_getElem_self]

theorem landNote_config (v : Nat) (p vol : F64) (vs : List Voice) :
    (landNote v p vol vs).map Voice.config = vs.map Voice.config :=
  map_config_modify vs v (voiceNoteOn_config p vol)

theorem landOverlaps_config (ovs : List Overlap) (vs : List Voice) :
    (landOverlaps ovs vs).map Voice.config = vs.map Voice.config := by
  unfold landOverlaps
  induction ovs generalizing vs with
  | nil => rfl
  | cons o ovs ih => rw [List.foldl_cons, ih, landNote_config]

/-- What R181 leaves unspecified is no control register. -/
theorem abandonVoices_config (draw : Nat) (stop : OpRef) (v : Nat) (vs : List Voice) :
    (abandonVoices draw stop v vs).map Voice.config = vs.map Voice.config := by
  induction vs generalizing v with
  | nil => rfl
  | cons x xs ih =>
    have hx : ∀ k o, (if reached stop ⟨v, k⟩ then abandonOp draw ⟨v, k⟩ o else o).cfg = o.cfg := by
      intro k o
      split_ifs <;> rfl
    simp only [abandonVoices, List.map_cons, ih, config_mapOps x hx]

/-- The record the machine holds is unchanged where the shared registers and each voice's are. -/
theorem config_eq_of {s t : State} (hshared : t.shared = s.shared)
    (hvoices : t.voices.map Voice.config = s.voices.map Voice.config) : t.config = s.config := by
  simp [State.config, hshared, hvoices]

theorem raiseNonfinite_config (r : OpRef) (ovs : List Overlap) (s : State) :
    (raiseNonfinite r ovs s).config = s.config :=
  config_eq_of rfl (by rw [raiseNonfinite_voices, abandonVoices_config, landOverlaps_config])

theorem execPrime_config {s t : State} (h : execPrime s = .next t) : t.config = s.config := by
  rcases execPrime_cases h with ⟨-, rfl⟩ | ⟨-, -, rfl⟩ | ⟨-, -, rfl⟩ <;> rfl

theorem execNoteOn_config {n v : Nat} {s t : State} (h : execNoteOn n v s = .next t) : t.config = s.config := by
  rcases execNoteOn_cases h with ⟨-, rfl⟩ | ⟨-, -, rfl⟩ | ⟨f, -, -, -, -, rfl⟩
  · rfl
  · rfl
  · exact config_eq_of rfl (landNote_config _ _ _ _)

theorem execPull_config {f : Nat} {s t : State} (h : execPull f s = .next t) : t.config = s.config := by
  rcases execPull_cases h with ⟨-, rfl⟩ | ⟨-, -, rfl⟩ | ⟨-, -, -, rfl⟩ | ⟨-, -, -, hrender⟩
  · rfl
  · rfl
  · rfl
  · rcases renderPull_cases hrender with ⟨bs, vs, hvoices, rfl⟩ | ⟨r, -, rfl⟩
    · exact config_eq_of rfl (renderVoices_config hvoices)
    · exact raiseNonfinite_config _ _ _

theorem routeWith_config {route : Routing} (hroute : KeepsConfig route) {s t : State}
    (h : routeWith route s = .next t) : t.config = s.config := by
  rcases routeWith_cases h with ⟨c, -, -, rfl⟩ | ⟨c, x, -, -, hx, ⟨b, y, hdone, rfl⟩ | ⟨r, -, rfl⟩⟩
  · rfl
  · exact config_eq_of rfl (map_config_set hx (hroute _ _ _ _ _ _ hdone))
  · exact raiseNonfinite_config _ _ _

/-- Settles O22: each command by what its meaning can do, each routing by the voice it renders. -/
theorem noInstructionChangesTheConfiguration : Obligations.NoInstructionChangesTheConfiguration := by
  intro i s t h
  cases i with
  | prime => exact execPrime_config h
  | pull frames => exact execPull_config h
  | noteOn note vel => exact execNoteOn_config h
  | alg0 => exact routeWith_config (route := routeAlg0) (fun _ _ _ _ _ _ => renderCarriers_config) h
  | alg1 => exact routeWith_config (route := routeAlg1) (fun _ _ _ _ _ _ => renderCarriers_config) h
  | alg2 => exact routeWith_config (route := routeAlg2) (fun _ _ _ _ _ _ => renderCarriers_config) h
  | alg3 => exact routeWith_config (route := routeAlg3) (fun _ _ _ _ _ _ => renderCarriers_config) h
  | alg4 => exact routeWith_config (route := routeAlg4) (fun _ _ _ _ _ _ => renderCarriers_config) h

end Sys2Proof.Machine
end

section
/-! PROOFS. The table read (R61, R123) and the state at reset (R186, R210). -/

namespace Sys2Proof.Machine

/-- The table read of R123 as an entry of WT, in range for a table that holds all of its L entries (R60, R61). -/
theorem tableSample_eq {g : GlobalConfig} (idx : Int) (hpos : 1 ≤ g.wtLen) (hlen : g.wtLen = g.wt.length) :
    (floorMod idx g.wtLen).toNat < g.wt.length ∧
      tableSample g idx = g.wt[(floorMod idx g.wtLen).toNat]? := by
  obtain ⟨h0, hL⟩ : 0 ≤ floorMod idx g.wtLen ∧ floorMod idx g.wtLen < g.wtLen := by
    rw [hlen]
    exact floorMod_range idx (by omega)
  exact ⟨by omega, by simp [tableSample, memRead, h0]⟩

/-- Settles O35, with the position modulo L as the index. -/
theorem tableReadsAreInRange : Obligations.TableReadsAreInRange := by
  intro g idx hpos hlen
  obtain ⟨hlt, hread⟩ := tableSample_eq idx hpos hlen
  have h0 : 0 ≤ floorMod idx g.wtLen := Int.emod_nonneg _ (by omega)
  refine ⟨(floorMod idx g.wtLen).toNat, by omega, ?_, hread, by simp [hread, hlt]⟩
  rw [Int.toNat_of_nonneg h0]
  exact Int.dvd_self_sub_emod

/-- R186 check 1 as the record's check computes it. -/
theorem polyphonyLegal_iff (c : Config) : polyphonyLegal c = true ↔ PolyphonyOk c := by
  simp [polyphonyLegal, PolyphonyOk]

/-- R88: a legal selector is one of the five values. -/
theorem alg_le_four_iff (a : BitVec 3) :
    a.toNat ≤ 4 ↔ a = 0#3 ∨ a = 1#3 ∨ a = 2#3 ∨ a = 3#3 ∨ a = 4#3 := by
  revert a
  decide

/-- R186 check 2. -/
theorem algLegal_iff (c : Config) : algLegal c = true ↔ AlgOk c := by
  simp [algLegal, AlgOk, alg_le_four_iff]

/-- The model's completeness check (log 12). -/
theorem recordComplete_iff (c : Config) : recordComplete c = true ↔ Complete c := by
  simp [recordComplete, Complete]

/-- A record that passes the first two checks of R186 and is not complete fails the third (log 12). -/
theorem validate_of_not_complete {c : Config} (hp : PolyphonyOk c) (ha : AlgOk c) (hc : ¬Complete c) :
    validate c = .cfgParam := by
  have hc' : recordComplete c = false := by
    rw [← Bool.not_eq_true, recordComplete_iff]
    exact hc
  simp [validate, (polyphonyLegal_iff c).mpr hp, (algLegal_iff c).mpr ha, hc']

theorem validate_initial : validate Config.initial = .none := by decide +kernel

/-- Settles O18: the check of R186 on the model's record, the wait of R211, and the incomplete records of log 12. -/
theorem initialConfigurationIsLegal : Obligations.InitialConfigurationIsLegal := by
  have hfault : State.reset.fault = 0#4 := congrArg faultBits validate_initial
  have hwait : step State.reset = .next State.reset := rfl
  refine ⟨hfault, rfl, rfl, rfl, rfl, hwait, fun c hp ha hc => ?_⟩
  exact congrArg faultBits (validate_of_not_complete hp ha hc)

end Sys2Proof.Machine
end

section
/-! PROOFS. The binary64 format (R11): the fields of a word, and what a finite value stands for. -/

namespace Sys2Proof.Machine

/-- A power of two with an integer exponent, as the quotient of the two shifts the model computes with. -/
theorem two_zpow_eq_div (a : ℤ) : (2 : ℚ) ^ a = ((2 ^ a.toNat : ℕ) : ℚ) / ((2 ^ (-a).toNat : ℕ) : ℚ) := by
  rw [Nat.cast_pow, Nat.cast_pow, Nat.cast_ofNat, ← zpow_natCast, ← zpow_natCast, ← zpow_sub₀ two_ne_zero]
  congr 1
  omega

/-! ### the fields -/

theorem expField_eq (x : F64) : expField x = x.toNat / 2 ^ 52 % 2 ^ 11 := by
  simp [expField, Nat.shiftRight_eq_div_pow]

theorem fracField_eq (x : F64) : fracField x = x.toNat % 2 ^ 52 := by
  simp [fracField]

theorem signBit_eq (x : F64) : signBit x = decide (2 ^ 63 ≤ x.toNat) :=
  BitVec.msb_eq_decide x

theorem fracField_lt (x : F64) : fracField x < 2 ^ 52 := (x.extractLsb' 0 52).isLt

theorem expField_lt (x : F64) : expField x < 2 ^ 11 := (x.extractLsb' 52 11).isLt

/-- A value is its sign, its exponent field and its fraction field. -/
theorem f64_ext {x y : F64} (hs : signBit x = signBit y) (he : expField x = expField y)
    (hf : fracField x = fracField y) : x = y := by
  have hx := x.isLt
  have hy := y.isLt
  rw [signBit_eq, signBit_eq, decide_eq_decide] at hs
  rw [expField_eq, expField_eq] at he
  rw [fracField_eq, fracField_eq] at hf
  exact BitVec.eq_of_toNat_eq (by omega)

theorem isFinite_iff (x : F64) : isFinite x = true ↔ expField x < 2047 := by
  have := expField_lt x
  simp only [isFinite, bne_iff_ne, ne_eq]
  omega

theorem isNaN_of_isFinite {x : F64} (h : isFinite x = true) : isNaN x = false := by
  simp_all [isFinite, isNaN]

theorem isInf_of_isFinite {x : F64} (h : isFinite x = true) : isInf x = false := by
  simp_all [isFinite, isInf]

/-! ### the value of a finite word -/

theorem significand_lt (x : F64) : significand x < 2 ^ 53 := by
  have := fracField_lt x
  unfold significand
  split_ifs <;> omega

theorem le_scale (x : F64) : -1074 ≤ scale x := by
  unfold scale
  split_ifs <;> omega

theorem scale_le {x : F64} (h : isFinite x = true) : scale x ≤ 971 := by
  have := (isFinite_iff x).mp h
  unfold scale
  split_ifs <;> omega

/-- Above the subnormal range the leading bit of the significand is set. -/
theorem le_significand {x : F64} (h : -1074 < scale x) : 2 ^ 52 ≤ significand x := by
  unfold scale at h
  unfold significand
  split_ifs at h ⊢ <;> omega

/-- The scale and the significand determine the two magnitude fields. -/
theorem magnitude_ext {x y : F64} (hs : scale x = scale y) (hm : significand x = significand y) :
    expField x = expField y ∧ fracField x = fracField y := by
  have hx := fracField_lt x
  have hy := fracField_lt y
  unfold scale at hs
  unfold significand at hm
  split_ifs at hs hm <;> omega

/-- The sign of a value as a factor. -/
def signFactor (neg : Bool) : ℚ := if neg then -1 else 1

@[simp] theorem signFactor_true : signFactor true = -1 := rfl
@[simp] theorem signFactor_false : signFactor false = 1 := rfl

@[simp] theorem abs_signFactor (neg : Bool) : |signFactor neg| = 1 := by
  cases neg <;> simp

/-- The signs of the factors of a product or a quotient. -/
theorem signFactor_bne (a b : Bool) : signFactor (a != b) = signFactor a * signFactor b := by
  cases a <;> cases b <;> simp

theorem signFactor_div (a b : Bool) : signFactor a / signFactor b = signFactor a * signFactor b := by
  cases b <;> simp [div_neg]

theorem signedSignificand_eq (x : F64) : (signedSignificand x : ℚ) = signFactor (signBit x) * significand x := by
  unfold signedSignificand
  cases signBit x <;> simp

theorem toRat_eq (x : F64) : toRat x = signFactor (signBit x) * (significand x * 2 ^ scale x) := by
  rw [toRat, signedSignificand_eq, mul_assoc]

theorem abs_toRat (x : F64) : |toRat x| = significand x * 2 ^ scale x := by
  rw [toRat_eq, abs_mul, abs_signFactor, one_mul]
  exact abs_of_nonneg (by positivity)

theorem toRat_eq_zero_iff (x : F64) : toRat x = 0 ↔ significand x = 0 := by
  rw [← abs_eq_zero, abs_toRat, mul_eq_zero, Nat.cast_eq_zero, or_iff_left (zpow_ne_zero _ two_ne_zero)]

/-- The magnitude of a value is below 2^53 units of its last place. -/
theorem abs_toRat_lt (x : F64) : |toRat x| < 2 ^ (scale x + 53) := by
  have hsig : (significand x : ℚ) < 2 ^ 53 := mod_cast significand_lt x
  calc |toRat x| = significand x * 2 ^ scale x := abs_toRat x
    _ < 2 ^ 53 * 2 ^ scale x := by gcongr
    _ = 2 ^ (scale x + 53) := by rw [add_comm, zpow_add₀ two_ne_zero]; norm_cast

/-- Above the subnormal range the magnitude is at least 2^52 units of its last place. -/
theorem le_abs_toRat {x : F64} (h : -1074 < scale x) : 2 ^ (scale x + 52) ≤ |toRat x| := by
  have hsig : (2 : ℚ) ^ 52 ≤ significand x := mod_cast le_significand h
  calc (2 : ℚ) ^ (scale x + 52) = 2 ^ 52 * 2 ^ scale x := by rw [add_comm, zpow_add₀ two_ne_zero]; norm_cast
    _ ≤ significand x * 2 ^ scale x := by gcongr
    _ = |toRat x| := (abs_toRat x).symm

/-- The last place grows with the magnitude. -/
theorem scale_le_scale {x y : F64} (h : |toRat x| ≤ |toRat y|) : scale x ≤ scale y := by
  by_contra hlt
  have hsub : -1074 < scale x := by have := le_scale y; omega
  have hgap : (2 : ℚ) ^ (scale y + 53) ≤ 2 ^ (scale x + 52) := zpow_le_zpow_right₀ (by norm_num) (by omega)
  exact absurd (calc |toRat y| < 2 ^ (scale y + 53) := abs_toRat_lt y
    _ ≤ 2 ^ (scale x + 52) := hgap
    _ ≤ |toRat x| := le_abs_toRat hsub) (not_lt.mpr h)

/-- The largest finite magnitude is 2^53 - 1 units of the last place 971. -/
theorem abs_toRat_le {x : F64} (h : isFinite x = true) : |toRat x| ≤ (2 ^ 53 - 1) * 2 ^ 971 := by
  have hsig : (significand x : ℚ) ≤ 2 ^ 53 - 1 := by
    have := significand_lt x
    rw [le_sub_iff_add_le]
    exact_mod_cast this
  have hscale : (2 : ℚ) ^ scale x ≤ 2 ^ 971 := by
    rw [← zpow_natCast]
    exact zpow_le_zpow_right₀ (by norm_num) (scale_le h)
  rw [abs_toRat]
  exact mul_le_mul hsig hscale (zpow_nonneg (by norm_num) _) (by norm_num)

/-- With an exponent not above its scale, a value is an integer number of units. -/
theorem toRat_eq_alignedTo {x : F64} {e : ℤ} (h : e ≤ scale x) : toRat x = alignedTo e x * 2 ^ e := by
  have hshift : (2 : ℚ) ^ scale x = 2 ^ (scale x - e).toNat * 2 ^ e := by
    rw [← zpow_natCast, ← zpow_add₀ two_ne_zero]
    congr 1
    omega
  rw [toRat, alignedTo, hshift]
  push_cast
  ring

/-- The sign bit of a value that is not zero is its sign. -/
theorem signBit_eq_decide_neg {x : F64} (h0 : toRat x ≠ 0) : signBit x = decide (toRat x < 0) := by
  have hpos : (0 : ℚ) < significand x * 2 ^ scale x := by
    rw [← abs_toRat]
    exact abs_pos.mpr h0
  rw [toRat_eq]
  cases signBit x <;> simp [hpos, hpos.le]

/-- Two values that are not zero and stand for the same number are the same word. -/
theorem eq_of_toRat_eq {x y : F64} (h : toRat x = toRat y) (h0 : toRat x ≠ 0) : x = y := by
  have hscale : scale x = scale y :=
    le_antisymm (scale_le_scale (by rw [h])) (scale_le_scale (by rw [h]))
  have hsig : (significand x : ℚ) * 2 ^ scale y = significand y * 2 ^ scale y := by
    rw [← abs_toRat y, ← h, abs_toRat x, hscale]
  have hsig' : significand x = significand y := by
    exact_mod_cast mul_right_cancel₀ (zpow_ne_zero _ two_ne_zero) hsig
  obtain ⟨he, hf⟩ := magnitude_ext hscale hsig'
  refine f64_ext ?_ he hf
  rw [signBit_eq_decide_neg h0, signBit_eq_decide_neg (h ▸ h0), h]

/-! ### a word from its sign and magnitude, and the inverted sign -/

theorem toNat_ofMagnitude (neg : Bool) {mag : ℕ} (h : mag < 2 ^ 63) :
    (ofMagnitude neg mag).toNat = (if neg then 2 ^ 63 else 0) + mag := by
  rw [ofMagnitude, BitVec.toNat_ofNat]
  cases neg <;> simp <;> omega

theorem signBit_ofMagnitude (neg : Bool) {mag : ℕ} (h : mag < 2 ^ 63) : signBit (ofMagnitude neg mag) = neg := by
  rw [signBit_eq, toNat_ofMagnitude neg h]
  cases neg
  · simpa using h
  · simp

theorem expField_ofMagnitude (neg : Bool) {mag : ℕ} (h : mag < 2 ^ 63) :
    expField (ofMagnitude neg mag) = mag / 2 ^ 52 := by
  rw [expField_eq, toNat_ofMagnitude neg h]
  split_ifs <;> omega

theorem fracField_ofMagnitude (neg : Bool) {mag : ℕ} (h : mag < 2 ^ 63) :
    fracField (ofMagnitude neg mag) = mag % 2 ^ 52 := by
  rw [fracField_eq, toNat_ofMagnitude neg h]
  split_ifs <;> omega

/-- k units of 2^(a - 1074), where k has 53 bits or is the power of two above them: the carry of k into the exponent field
is the right one, as is the subnormal range at a = 0. -/
theorem toRat_ofMagnitude (neg : Bool) {a k : ℕ} (hk : k ≤ 2 ^ 53) (ha : 0 < a → 2 ^ 52 ≤ k)
    (h : a * 2 ^ 52 + k < 2 ^ 63) :
    toRat (ofMagnitude neg (a * 2 ^ 52 + k)) = signFactor neg * (k * 2 ^ ((a : ℤ) - 1074)) := by
  rw [toRat_eq, signBit_ofMagnitude neg h, significand, scale, expField_ofMagnitude neg h,
    fracField_ofMagnitude neg h]
  congr 1
  have hcases : k < 2 ^ 52 ∨ (2 ^ 52 ≤ k ∧ k < 2 ^ 53) ∨ k = 2 ^ 53 := by omega
  rcases hcases with hsub | ⟨hlow, hhigh⟩ | rfl
  · have h0 : a = 0 := by omega
    subst h0
    rw [if_pos (by omega), if_pos (by omega), zero_mul, zero_add, Nat.mod_eq_of_lt hsub]
    norm_num
  · have hexp : (a * 2 ^ 52 + k) / 2 ^ 52 = a + 1 := by omega
    have hfrac : 2 ^ 52 + (a * 2 ^ 52 + k) % 2 ^ 52 = k := by omega
    rw [hexp, if_neg (by omega), if_neg (by omega), hfrac]
    congr 2
    push_cast
    ring
  · have hexp : (a * 2 ^ 52 + 2 ^ 53) / 2 ^ 52 = a + 2 := by omega
    have hfrac : 2 ^ 52 + (a * 2 ^ 52 + 2 ^ 53) % 2 ^ 52 = 2 ^ 52 := by omega
    have hscale : (((a + 2 : ℕ) : ℤ) - 1075) = ((a : ℤ) - 1074) + 1 := by push_cast; ring
    rw [hexp, if_neg (by omega), if_neg (by omega), hfrac, hscale, zpow_add_one₀ two_ne_zero]
    push_cast
    ring

theorem isFinite_ofMagnitude (neg : Bool) {mag : ℕ} (h : mag < infMagnitude) :
    isFinite (ofMagnitude neg mag) = true := by
  unfold infMagnitude at h
  rw [isFinite_iff, expField_ofMagnitude neg (by omega)]
  omega

@[simp] theorem signBit_zero (neg : Bool) : signBit (zero neg) = neg :=
  signBit_ofMagnitude neg (by norm_num)

@[simp] theorem isFinite_zero (neg : Bool) : isFinite (zero neg) = true :=
  isFinite_ofMagnitude neg (by norm_num [infMagnitude])

@[simp] theorem toRat_zero (neg : Bool) : toRat (zero neg) = 0 := by
  cases neg <;> decide +kernel

@[simp] theorem signBit_fneg (x : F64) : signBit (fneg x) = !signBit x := by
  rw [signBit, fneg, BitVec.msb_xor]
  exact Bool.xor_true _

@[simp] theorem expField_fneg (x : F64) : expField (fneg x) = expField x := by
  rw [expField, fneg, BitVec.extractLsb'_xor]
  exact congrArg BitVec.toNat (BitVec.xor_zero)

@[simp] theorem fracField_fneg (x : F64) : fracField (fneg x) = fracField x := by
  rw [fracField, fneg, BitVec.extractLsb'_xor]
  exact congrArg BitVec.toNat (BitVec.xor_zero)

@[simp] theorem significand_fneg (x : F64) : significand (fneg x) = significand x := by
  simp [significand]

@[simp] theorem scale_fneg (x : F64) : scale (fneg x) = scale x := by
  simp [scale]

@[simp] theorem isFinite_fneg (x : F64) : isFinite (fneg x) = isFinite x := by
  simp [isFinite]

@[simp] theorem toRat_fneg (x : F64) : toRat (fneg x) = -toRat x := by
  rw [toRat_eq, toRat_eq, signBit_fneg, significand_fneg, scale_fneg]
  cases signBit x <;> simp

end Sys2Proof.Machine
end

section
/-! PROOFS. The integer roundings: to the nearest, with each tie rule (R11, R14). -/

namespace Sys2Proof.Machine

/-- A fraction compared with one half, as roundTie compares it. -/
theorem half_le_div_iff (r : ℕ) {d : ℕ} (hd : 0 < d) : 1 / 2 ≤ (r : ℚ) / d ↔ d ≤ 2 * r := by
  rw [div_le_div_iff₀ two_pos (mod_cast hd)]
  norm_cast
  omega

theorem div_le_half_iff (r : ℕ) {d : ℕ} (hd : 0 < d) : (r : ℚ) / d ≤ 1 / 2 ↔ 2 * r ≤ d := by
  rw [div_le_div_iff₀ (mod_cast hd) two_pos]
  norm_cast
  omega

/-- The integer nearest to a quotient, with the rule of each IDX_TIE where the quotient lies halfway. -/
theorem roundTie_spec (tie : IdxTie) (n : ℕ) {d : ℕ} (hd : 0 < d) :
    |(roundTie tie n d : ℚ) - n / d| ≤ 1 / 2 ∧
      (|(roundTie tie n d : ℚ) - n / d| = 1 / 2 →
        (tie = .even → roundTie tie n d % 2 = 0) ∧ (tie = .away → (n : ℚ) / d < roundTie tie n d)) := by
  have hd' : (0 : ℚ) < d := mod_cast hd
  have hquot : (n : ℚ) / d = (n / d : ℕ) + ((n % d : ℕ) : ℚ) / d := by
    rw [div_eq_iff hd'.ne', add_mul, div_mul_cancel₀ _ hd'.ne']
    exact_mod_cast (Nat.div_add_mod' n d).symm
  have hge := half_le_div_iff (n % d) hd
  have hle := div_le_half_iff (n % d) hd
  have hfrac0 : 0 ≤ ((n % d : ℕ) : ℚ) / d := by positivity
  have hfrac1 : ((n % d : ℕ) : ℚ) / d < 1 := (div_lt_one hd').mpr (mod_cast Nat.mod_lt n hd)
  rw [hquot]
  generalize ((n % d : ℕ) : ℚ) / d = frac at hge hle hfrac0 hfrac1
  have htie : frac = 1 / 2 → 2 * (n % d) = d := fun h => le_antisymm (hle.mp h.le) (hge.mp h.ge)
  unfold roundTie
  simp only
  split_ifs with hup
  · have hhalf : 1 / 2 ≤ frac := hge.mpr (by omega)
    rw [Nat.cast_succ, add_sub_add_left_eq_sub, abs_of_pos (sub_pos.mpr hfrac1)]
    refine ⟨by linarith, fun h => ⟨?_, fun _ => by linarith⟩⟩
    have hr := htie (by linarith)
    rintro rfl
    rcases hup with hup | ⟨-, haway | hodd⟩
    · omega
    · cases haway
    · omega
  · have hhalf : frac ≤ 1 / 2 := hle.mpr (by omega)
    rw [sub_add_cancel_left, abs_neg, abs_of_nonneg hfrac0]
    refine ⟨hhalf, fun h => ?_⟩
    have hr := htie h
    exact ⟨fun _ => by omega, fun haway => absurd (.inr ⟨hr, .inl haway⟩) hup⟩

/-- k is the integer nearest to t, and even where t lies halfway between two integers. -/
def NearestEven (t : ℚ) (k : ℕ) : Prop := |(k : ℚ) - t| ≤ 1 / 2 ∧ (|(k : ℚ) - t| = 1 / 2 → k % 2 = 0)

/-- No integer is nearer, and one as near leaves k even. -/
theorem NearestEven.le_dist {t : ℚ} {k : ℕ} (h : NearestEven t k) (j : ℤ) :
    |(k : ℚ) - t| ≤ |(j : ℚ) - t| ∧ (|(k : ℚ) - t| = |(j : ℚ) - t| → (j : ℚ) = k ∨ k % 2 = 0) := by
  obtain ⟨hnear, htie⟩ := h
  by_cases hj : j = k
  · subst hj
    simp
  · have hgap : (1 : ℚ) ≤ |(j : ℚ) - k| := by
      exact_mod_cast Int.one_le_abs (sub_ne_zero.mpr hj)
    have htri : |(j : ℚ) - k| ≤ |(j : ℚ) - t| + |(k : ℚ) - t| := by
      rw [abs_sub_comm (k : ℚ) t]
      exact abs_sub_le _ _ _
    exact ⟨by linarith, fun heq => .inr (htie (by linarith))⟩

/-- The nearest integer to an integer is itself. -/
theorem NearestEven.eq_of_int {t : ℚ} {k : ℕ} (h : NearestEven t k) {j : ℤ} (hj : t = j) : (k : ℚ) = t := by
  have := (h.le_dist j).1
  rw [hj, sub_self, abs_zero] at this
  rw [hj]
  exact sub_eq_zero.mp (abs_nonpos_iff.mp this)

theorem roundQuotient_nearestEven (n : ℕ) {d : ℕ} (hd : 0 < d) : NearestEven ((n : ℚ) / d) (roundQuotient n d) := by
  have heven : roundQuotient n d = roundTie .even n d := by
    simp [roundQuotient, roundTie]
  obtain ⟨hnear, htie⟩ := roundTie_spec .even n hd
  rw [heven]
  exact ⟨hnear, fun h => (htie h).1 rfl⟩

theorem roundScaled_nearestEven (n : ℕ) {d : ℕ} (hd : 0 < d) (sh : ℤ) :
    NearestEven ((n : ℚ) / d * 2 ^ sh) (roundScaled n d sh) := by
  have hshift : (n : ℚ) / d * 2 ^ sh = ((n * 2 ^ sh.toNat : ℕ) : ℚ) / ((d * 2 ^ (-sh).toNat : ℕ) : ℚ) := by
    rw [two_zpow_eq_div, div_mul_div_comm, Nat.cast_mul, Nat.cast_mul]
  rw [hshift]
  exact roundQuotient_nearestEven _ (by positivity)

/-- The binary logarithm of a quotient, rounded down. -/
theorem floorLog2_spec {n d : ℕ} (hn : 0 < n) (hd : 0 < d) :
    (2 : ℚ) ^ floorLog2 n d ≤ n / d ∧ (n : ℚ) / d < 2 ^ (floorLog2 n d + 1) := by
  have hd' : (0 : ℚ) < d := mod_cast hd
  have hlow : ∀ {m : ℕ}, 0 < m → (2 : ℚ) ^ (m.log2 : ℤ) ≤ m := fun hm => by
    rw [zpow_natCast]
    exact_mod_cast Nat.log2_self_le hm.ne'
  have hhigh : ∀ m : ℕ, (m : ℚ) < 2 ^ ((m.log2 : ℤ) + 1) := fun m => by
    rw [← Nat.cast_succ, zpow_natCast]
    exact_mod_cast Nat.lt_log2_self
  have hlower : (2 : ℚ) ^ ((n.log2 : ℤ) - d.log2 - 1) ≤ n / d := by
    rw [le_div_iff₀ hd']
    calc (2 : ℚ) ^ ((n.log2 : ℤ) - d.log2 - 1) * d
        ≤ 2 ^ ((n.log2 : ℤ) - d.log2 - 1) * 2 ^ ((d.log2 : ℤ) + 1) := by gcongr; exact (hhigh d).le
      _ = 2 ^ (n.log2 : ℤ) := by rw [← zpow_add₀ two_ne_zero]; congr 1; ring
      _ ≤ n := hlow hn
  have hupper : (n : ℚ) / d < 2 ^ ((n.log2 : ℤ) - d.log2 + 1) := by
    rw [div_lt_iff₀ hd']
    calc (n : ℚ) < 2 ^ ((n.log2 : ℤ) + 1) := hhigh n
      _ = 2 ^ ((n.log2 : ℤ) - d.log2 + 1) * 2 ^ (d.log2 : ℤ) := by
        rw [← zpow_add₀ two_ne_zero]; congr 1; ring
      _ ≤ 2 ^ ((n.log2 : ℤ) - d.log2 + 1) * d := by gcongr; exact hlow hd
  have htest : ∀ k : ℤ, n * 2 ^ (-k).toNat < d * 2 ^ k.toNat ↔ (n : ℚ) / d < 2 ^ k := fun k => by
    rw [two_zpow_eq_div, div_lt_div_iff₀ hd' (by positivity), mul_comm ((2 ^ k.toNat : ℕ) : ℚ)]
    norm_cast
  unfold floorLog2
  simp only
  split_ifs with hlt
  · exact ⟨hlower, by rw [sub_add_cancel]; exact (htest _).mp hlt⟩
  · exact ⟨not_lt.mp fun h => hlt ((htest _).mpr h), hupper⟩

end Sys2Proof.Machine
end

section
/-! PROOFS. roundToF64 is roundTiesToEven (R11). With q the last place of the result and t the exact value in units of
2 ^ q, its significand is the integer nearest to t, and every finite value is an integer number of such units or lies
below all values with this last place. -/

namespace Sys2Proof.Machine

/-- The last place is the one of 53 significant bits, or the subnormal one. -/
theorem lastPlace_spec {n d : ℕ} (hn : 0 < n) (hd : 0 < d) (e : ℤ) :
    -1074 ≤ lastPlace n d e ∧ (n : ℚ) / d * 2 ^ e < 2 ^ (lastPlace n d e + 53) ∧
      (-1074 < lastPlace n d e → (2 : ℚ) ^ (lastPlace n d e + 52) ≤ n / d * 2 ^ e) := by
  obtain ⟨hlow, hhigh⟩ := floorLog2_spec hn hd
  have hpow : (0 : ℚ) < 2 ^ e := by positivity
  refine ⟨le_max_right _ _, ?_, fun hq => ?_⟩
  · calc (n : ℚ) / d * 2 ^ e < 2 ^ (floorLog2 n d + 1) * 2 ^ e := by gcongr
      _ = 2 ^ (floorLog2 n d + 1 + e) := (zpow_add₀ two_ne_zero _ _).symm
      _ ≤ 2 ^ (lastPlace n d e + 53) := zpow_le_zpow_right₀ (by norm_num) (by unfold lastPlace; omega)
  · calc (2 : ℚ) ^ (lastPlace n d e + 52) ≤ 2 ^ (floorLog2 n d + e) :=
          zpow_le_zpow_right₀ (by norm_num) (by unfold lastPlace at hq ⊢; omega)
      _ = 2 ^ floorLog2 n d * 2 ^ e := zpow_add₀ two_ne_zero _ _
      _ ≤ n / d * 2 ^ e := by gcongr

/-- What roundToF64 computes: the exponent part a and the significand k of the result, k units of 2 ^ (a - 1074) being
nearest to the exact value v. -/
structure RoundedParts (v : ℚ) (a k : ℕ) : Prop where
  nearest : NearestEven (v / 2 ^ ((a : ℤ) - 1074)) k
  lt : v < 2 ^ ((a : ℤ) - 1074 + 53)
  le : 0 < a → (2 : ℚ) ^ ((a : ℤ) - 1074 + 52) ≤ v

/-- The significand has at most 53 bits or is the power of two above them. -/
theorem RoundedParts.le_two_pow {v : ℚ} {a k : ℕ} (h : RoundedParts v a k) : k ≤ 2 ^ 53 := by
  have hpos : (0 : ℚ) < 2 ^ ((a : ℤ) - 1074) := by positivity
  have ht : v / 2 ^ ((a : ℤ) - 1074) < 2 ^ 53 := by
    rw [div_lt_iff₀ hpos, ← zpow_natCast, ← zpow_add₀ two_ne_zero, add_comm]
    exact h.lt
  have hk : (k : ℚ) < 2 ^ 53 + 1 := by
    have := (abs_le.mp h.nearest.1).2
    linarith
  exact Nat.lt_succ_iff.mp (by exact_mod_cast hk)

/-- Above the subnormal range the significand has its leading bit. -/
theorem RoundedParts.two_pow_le {v : ℚ} {a k : ℕ} (h : RoundedParts v a k) (ha : 0 < a) : 2 ^ 52 ≤ k := by
  have hpos : (0 : ℚ) < 2 ^ ((a : ℤ) - 1074) := by positivity
  have ht : (2 : ℚ) ^ 52 ≤ v / 2 ^ ((a : ℤ) - 1074) := by
    rw [le_div_iff₀ hpos, ← zpow_natCast, ← zpow_add₀ two_ne_zero, add_comm]
    exact h.le ha
  have hk : (2 : ℚ) ^ 52 < k + 1 := by
    have := (abs_le.mp h.nearest.1).1
    linarith
  exact Nat.lt_succ_iff.mp (by exact_mod_cast hk)

/-- The rounded value in units of its last place. -/
theorem roundToF64_parts (neg : Bool) {n d : ℕ} (hn : 0 < n) (hd : 0 < d) (e : ℤ) :
    ∃ a k : ℕ, (a : ℤ) - 1074 = lastPlace n d e ∧ RoundedParts ((n : ℚ) / d * 2 ^ e) a k ∧
      roundToF64 neg n d e = ofMagnitude neg (min (a * 2 ^ 52 + k) infMagnitude) := by
  obtain ⟨hq, hlt, hle⟩ := lastPlace_spec hn hd e
  have ha : (((lastPlace n d e + 1074).toNat : ℕ) : ℤ) - 1074 = lastPlace n d e := by omega
  refine ⟨(lastPlace n d e + 1074).toNat, roundScaled n d (e - lastPlace n d e), ha, ⟨?_, ?_, ?_⟩, rfl⟩
  · rw [ha, mul_div_assoc, ← zpow_sub₀ two_ne_zero]
    exact roundScaled_nearestEven n hd _
  · rwa [ha]
  · rw [ha]
    exact fun h => hle (by omega)

/-- The overflow threshold of roundTiesToEven (R11) in half units of the last place of the largest finite value. -/
theorem overflowThreshold_eq : (2 : ℚ) ^ 1024 - 2 ^ 970 = (2 ^ 54 - 1) * 2 ^ 970 := by
  rw [sub_one_mul, ← pow_add]

/-- The result reaches the infinity exactly from 2^1024 - 2^970 on: half a unit above the largest finite value, the tie
going to the even side. -/
theorem RoundedParts.lt_infMagnitude_iff {v : ℚ} {a k : ℕ} (h : RoundedParts v a k) :
    a * 2 ^ 52 + k < infMagnitude ↔ v < 2 ^ 1024 - 2 ^ 970 := by
  have hk := h.le_two_pow
  have hunit : (0 : ℚ) < 2 ^ 970 := by positivity
  unfold infMagnitude
  rcases lt_trichotomy a 2045 with ha | rfl | ha
  · refine iff_of_true (by omega) ?_
    calc v < 2 ^ ((a : ℤ) - 1074 + 53) := h.lt
      _ ≤ 2 ^ ((1023 : ℕ) : ℤ) := zpow_le_zpow_right₀ (by norm_num) (by omega)
      _ = 2 ^ 53 * 2 ^ 970 := by rw [zpow_natCast, ← pow_add]
      _ ≤ (2 ^ 54 - 1) * 2 ^ 970 := mul_le_mul_of_nonneg_right (by norm_num) hunit.le
      _ = 2 ^ 1024 - 2 ^ 970 := overflowThreshold_eq.symm
  · have hscale : (2 : ℚ) ^ (((2045 : ℕ) : ℤ) - 1074) = 2 * 2 ^ 970 := by
      rw [← pow_succ', ← zpow_natCast]
      rfl
    obtain ⟨hnear, htie⟩ := h.nearest
    have ht : v < 2 ^ 1024 - 2 ^ 970 ↔ v / 2 ^ (((2045 : ℕ) : ℤ) - 1074) < 2 ^ 53 - 1 / 2 := by
      rw [hscale, div_lt_iff₀ (by positivity), overflowThreshold_eq, ← mul_assoc]
      norm_num only
    rw [ht]
    generalize v / 2 ^ (((2045 : ℕ) : ℤ) - 1074) = t at hnear htie
    obtain ⟨hlow, hhigh⟩ := abs_le.mp hnear
    constructor
    · intro hfin
      have hk' : (k : ℚ) ≤ 2 ^ 53 - 1 := by
        rw [le_sub_iff_add_le]
        exact_mod_cast (by omega : k + 1 ≤ 2 ^ 53)
      refine lt_of_le_of_ne (by linarith) fun heq => ?_
      have hodd : k = 2 ^ 53 - 1 := by
        have : (2 : ℚ) ^ 53 ≤ k + 1 := by linarith
        have : 2 ^ 53 ≤ k + 1 := by exact_mod_cast this
        omega
      have heven := htie (by rw [heq, hodd]; norm_num)
      omega
    · intro hlt
      have : (k : ℚ) < 2 ^ 53 := by linarith
      have : k < 2 ^ 53 := by exact_mod_cast this
      omega
  · have hk' := h.two_pow_le (by omega)
    refine iff_of_false (by omega) (not_lt.mpr ?_)
    calc (2 : ℚ) ^ 1024 - 2 ^ 970 ≤ 2 ^ 1024 := sub_le_self _ hunit.le
      _ = 2 ^ ((1024 : ℕ) : ℤ) := (zpow_natCast _ _).symm
      _ ≤ 2 ^ ((a : ℤ) - 1074 + 52) := zpow_le_zpow_right₀ (by norm_num) (by omega)
      _ ≤ v := h.le (by omega)

/-- Every finite value is an integer number of units of 2 ^ q, or lies below the values with the last place q. -/
theorem finite_on_grid (z : F64) {q : ℤ} (hq : -1074 ≤ q) :
    (∃ j : ℤ, toRat z = j * 2 ^ q) ∨ (-1074 < q ∧ |toRat z| < 2 ^ (q + 52)) := by
  rcases le_or_gt q (scale z) with hle | hlt
  · exact .inl ⟨alignedTo q z, toRat_eq_alignedTo hle⟩
  · have hz := le_scale z
    refine .inr ⟨by omega, (abs_toRat_lt z).trans_le ?_⟩
    exact zpow_le_zpow_right₀ (by norm_num) (by omega)

/-- No finite value is nearer to v than k units, and one as near leaves k even. -/
theorem RoundedParts.le_dist {v : ℚ} {a k : ℕ} (h : RoundedParts v a k) (z : F64) :
    |k * 2 ^ ((a : ℤ) - 1074) - v| ≤ |toRat z - v| ∧
      (|k * 2 ^ ((a : ℤ) - 1074) - v| = |toRat z - v| → toRat z = k * 2 ^ ((a : ℤ) - 1074) ∨ k % 2 = 0) := by
  have hpos : (0 : ℚ) < 2 ^ ((a : ℤ) - 1074) := by positivity
  have hunit : ∀ j : ℚ, |j * 2 ^ ((a : ℤ) - 1074) - v| =
      |j - v / 2 ^ ((a : ℤ) - 1074)| * 2 ^ ((a : ℤ) - 1074) := fun j => by
    rw [← abs_of_pos hpos, ← abs_mul, abs_of_pos hpos, sub_mul, div_mul_cancel₀ _ hpos.ne']
  rcases finite_on_grid z (q := (a : ℤ) - 1074) (by omega) with ⟨j, hj⟩ | ⟨hsub, hbelow⟩
  · obtain ⟨hle, htie⟩ := h.nearest.le_dist j
    rw [hj, hunit, hunit]
    refine ⟨mul_le_mul_of_nonneg_right hle hpos.le, fun heq => ?_⟩
    rw [mul_left_inj' hpos.ne'] at heq ⊢
    exact htie heq
  · have hlead : (2 : ℚ) ^ ((a : ℤ) - 1074 + 52) = ((2 ^ 52 : ℤ) : ℚ) * 2 ^ ((a : ℤ) - 1074) := by
      rw [add_comm, zpow_add₀ two_ne_zero]
      norm_cast
    have hv := h.le (by omega)
    have hstrict : |k * 2 ^ ((a : ℤ) - 1074) - v| < |toRat z - v| := by
      calc |k * 2 ^ ((a : ℤ) - 1074) - v| ≤ |((2 ^ 52 : ℤ) : ℚ) * 2 ^ ((a : ℤ) - 1074) - v| := by
            rw [hunit, hunit]
            exact mul_le_mul_of_nonneg_right (h.nearest.le_dist _).1 hpos.le
        _ = v - 2 ^ ((a : ℤ) - 1074 + 52) := by
            rw [← hlead, abs_sub_comm]
            exact abs_of_nonneg (sub_nonneg.mpr hv)
        _ < v - toRat z := by linarith [le_abs_self (toRat z)]
        _ ≤ |toRat z - v| := by rw [abs_sub_comm]; exact le_abs_self _
    exact ⟨hstrict.le, fun heq => absurd heq hstrict.ne⟩

end Sys2Proof.Machine
end

section
/-! PROOFS. The operations of R11: each is the exact rational result, rounded once. -/

namespace Sys2Proof.Machine

/-- Every value below 2^53 is far below the overflow threshold. -/
theorem lt_overflowThreshold {v : ℚ} (h : v < 2 ^ 53) : v < 2 ^ 1024 - 2 ^ 970 := by
  have hunit : (1 : ℚ) ≤ 2 ^ 970 := one_le_pow₀ (by norm_num)
  rw [overflowThreshold_eq]
  generalize (2 : ℚ) ^ 970 = u at hunit
  linarith

/-- Below the threshold the result is finite: k units, with k's last bit as its own. -/
theorem RoundedParts.finite_of_lt {v : ℚ} {a k : ℕ} (h : RoundedParts v a k) (hv : v < 2 ^ 1024 - 2 ^ 970) (neg : Bool) :
    isFinite (ofMagnitude neg (min (a * 2 ^ 52 + k) infMagnitude)) = true ∧
      toRat (ofMagnitude neg (min (a * 2 ^ 52 + k) infMagnitude)) = signFactor neg * (k * 2 ^ ((a : ℤ) - 1074)) ∧
      fracField (ofMagnitude neg (min (a * 2 ^ 52 + k) infMagnitude)) % 2 = k % 2 := by
  have hlt := h.lt_infMagnitude_iff.mpr hv
  have h63 : a * 2 ^ 52 + k < 2 ^ 63 := hlt.trans (by norm_num [infMagnitude])
  rw [min_eq_left hlt.le]
  refine ⟨isFinite_ofMagnitude neg hlt, toRat_ofMagnitude neg h.le_two_pow h.two_pow_le h63, ?_⟩
  rw [fracField_ofMagnitude neg h63]
  omega

/-- roundToF64 is roundTiesToEven of the exact value with the sign given (R11). -/
theorem roundedTo_roundToF64 (neg : Bool) {n d : ℕ} (hn : 0 < n) (hd : 0 < d) (e : ℤ) :
    RoundedTo (signFactor neg * ((n : ℚ) / d * 2 ^ e)) (roundToF64 neg n d e) := by
  obtain ⟨a, k, -, h, hr⟩ := roundToF64_parts neg hn hd e
  have hv : 0 < (n : ℚ) / d * 2 ^ e := by positivity
  rw [hr]
  generalize (n : ℚ) / d * 2 ^ e = v at h hv
  unfold RoundedTo
  rw [abs_mul, abs_signFactor, one_mul, abs_of_pos hv]
  split_ifs with hlt
  · obtain ⟨hfin, hval, hpar⟩ := h.finite_of_lt hlt neg
    refine ⟨hfin, fun z _ => ?_⟩
    rw [hval, hpar]
    cases neg with
    | false => simpa using h.le_dist z
    | true =>
      have hflip : ∀ w : ℚ, |-w - v| = |w - -v| := fun w => by rw [← abs_neg]; ring_nf
      have hz := h.le_dist (fneg z)
      rw [toRat_fneg, hflip, ← neg_neg (_ * _), hflip, neg_eq_iff_eq_neg] at hz
      simpa using hz
  · rw [min_eq_right (not_lt.mp fun hinf => hlt (h.lt_infMagnitude_iff.mp hinf))]
    have hneg : decide (signFactor neg * v < 0) = neg := by
      cases neg <;> simp [hv, hv.le]
    rw [hneg, infinity]

theorem signBit_roundToF64 (neg : Bool) (n d : ℕ) (e : ℤ) : signBit (roundToF64 neg n d e) = neg :=
  signBit_ofMagnitude neg ((min_le_right _ _).trans_lt (by norm_num [infMagnitude]))

/-- A value that is an integer number of units of its last place loses nothing. -/
theorem toRat_roundToF64_of_exact (neg : Bool) {n d : ℕ} (hn : 0 < n) (hd : 0 < d) {e j : ℤ}
    (hj : (n : ℚ) / d * 2 ^ e = j * 2 ^ lastPlace n d e) (hv : (n : ℚ) / d * 2 ^ e < 2 ^ 1024 - 2 ^ 970) :
    isFinite (roundToF64 neg n d e) = true ∧
      toRat (roundToF64 neg n d e) = signFactor neg * ((n : ℚ) / d * 2 ^ e) := by
  obtain ⟨a, k, hq, h, hr⟩ := roundToF64_parts neg hn hd e
  obtain ⟨hfin, hval, -⟩ := h.finite_of_lt hv neg
  have hpos : (0 : ℚ) < 2 ^ ((a : ℤ) - 1074) := by positivity
  have hk := h.nearest.eq_of_int (j := j) (by rw [hj, ← hq, mul_div_cancel_right₀ _ hpos.ne'])
  rw [hr]
  exact ⟨hfin, by rw [hval, hk, div_mul_cancel₀ _ hpos.ne']⟩

/-- A zero result is exact, with either sign. -/
theorem roundedTo_zero (neg : Bool) : RoundedTo 0 (zero neg) := by
  rw [RoundedTo, abs_zero, if_pos (lt_overflowThreshold (by norm_num))]
  refine ⟨isFinite_zero neg, fun z _ => ?_⟩
  rw [toRat_zero, sub_zero, abs_zero, sub_zero]
  exact ⟨abs_nonneg _, fun h => .inl (abs_eq_zero.mp h.symm)⟩

/-- An integer is its sign times its magnitude. -/
theorem signFactor_mul_natAbs (i : ℤ) : signFactor (decide (i < 0)) * (i.natAbs : ℚ) = i := by
  rw [Nat.cast_natAbs]
  rcases lt_or_ge i 0 with hneg | hpos
  · rw [decide_eq_true hneg, abs_of_neg hneg]
    simp
  · rw [decide_eq_false hpos.not_gt, abs_of_nonneg hpos]
    simp

/-- The sum of two finite values (R11): a zero with IEEE 754's sign, or the exact sum rounded once. -/
theorem fadd_cases {x y : F64} (hx : isFinite x = true) (hy : isFinite y = true) :
    (toRat x + toRat y = 0 ∧ fadd x y = zero (signBit x && signBit y)) ∨
    (toRat x + toRat y ≠ 0 ∧ ∃ (neg : Bool) (n : ℕ) (e : ℤ), 0 < n ∧ fadd x y = roundToF64 neg n 1 e ∧
      toRat x + toRat y = signFactor neg * ((n : ℚ) / (1 : ℕ) * 2 ^ e)) := by
  have hsum : toRat x + toRat y = ((alignedTo (min (scale x) (scale y)) x +
      alignedTo (min (scale x) (scale y)) y : ℤ) : ℚ) * 2 ^ min (scale x) (scale y) := by
    rw [toRat_eq_alignedTo (min_le_left (scale x) (scale y)), toRat_eq_alignedTo (min_le_right (scale x) (scale y))]
    push_cast
    ring
  have hpow : (2 : ℚ) ^ min (scale x) (scale y) ≠ 0 := zpow_ne_zero _ two_ne_zero
  unfold fadd
  simp only [isNaN_of_isFinite hx, isNaN_of_isFinite hy, isInf_of_isFinite hx, isInf_of_isFinite hy, Bool.or_self,
    Bool.false_eq_true, if_false]
  rw [hsum]
  generalize alignedTo (min (scale x) (scale y)) x + alignedTo (min (scale x) (scale y)) y = sum
  split_ifs with h0
  · exact .inl ⟨by simp [h0], rfl⟩
  · refine .inr ⟨mul_ne_zero (by exact_mod_cast h0) hpow, decide (sum < 0), sum.natAbs, min (scale x) (scale y),
      Int.natAbs_pos.mpr h0, rfl, ?_⟩
    rw [Nat.cast_one, div_one, ← mul_assoc]
    rw [signFactor_mul_natAbs]

theorem roundedTo_fadd {x y : F64} (hx : isFinite x = true) (hy : isFinite y = true) :
    RoundedTo (toRat x + toRat y) (fadd x y) := by
  rcases fadd_cases hx hy with ⟨h0, hr⟩ | ⟨-, neg, n, e, hn, hr, hv⟩
  · rw [h0, hr]
    exact roundedTo_zero _
  · rw [hr, hv]
    exact roundedTo_roundToF64 neg hn one_pos e

theorem signBit_fadd_of_zero {x y : F64} (hx : isFinite x = true) (hy : isFinite y = true)
    (h0 : toRat x + toRat y = 0) : signBit (fadd x y) = (signBit x && signBit y) := by
  rcases fadd_cases hx hy with ⟨-, hr⟩ | ⟨hne, -⟩
  · rw [hr, signBit_zero]
  · exact absurd h0 hne

/-- A difference of finite values is the sum with the negated second operand (R11). -/
theorem fsub_eq {x y : F64} (hx : isFinite x = true) (hy : isFinite y = true) : fsub x y = fadd x (fneg y) := by
  simp [fsub, isNaN_of_isFinite hx, isNaN_of_isFinite hy]

/-- Settles O39, with fsub as fadd of the negated operand. -/
theorem additionIsCorrectlyRounded : Obligations.AdditionIsCorrectlyRounded := by
  intro x y hx hy
  have hy' : isFinite (fneg y) = true := by rwa [isFinite_fneg]
  have hdiff : toRat x - toRat y = toRat x + toRat (fneg y) := by rw [toRat_fneg, sub_eq_add_neg]
  rw [fsub_eq hx hy, hdiff, ← signBit_fneg]
  exact ⟨roundedTo_fadd hx hy, roundedTo_fadd hx hy', signBit_fadd_of_zero hx hy, signBit_fadd_of_zero hx hy'⟩

/-- The product of two finite values (R11): a zero or the exact product rounded once. -/
theorem fmul_cases {x y : F64} (hx : isFinite x = true) (hy : isFinite y = true) :
    (toRat x * toRat y = 0 ∧ fmul x y = zero (signBit x != signBit y)) ∨
    ∃ (n : ℕ) (e : ℤ), 0 < n ∧ fmul x y = roundToF64 (signBit x != signBit y) n 1 e ∧
      toRat x * toRat y = signFactor (signBit x != signBit y) * ((n : ℚ) / (1 : ℕ) * 2 ^ e) := by
  unfold fmul
  simp only [isNaN_of_isFinite hx, isNaN_of_isFinite hy, isInf_of_isFinite hx, isInf_of_isFinite hy, Bool.or_self,
    Bool.false_eq_true, if_false]
  split_ifs with h0
  · refine .inl ⟨?_, rfl⟩
    rwa [mul_eq_zero, toRat_eq_zero_iff, toRat_eq_zero_iff]
  · obtain ⟨hx0, hy0⟩ := not_or.mp h0
    refine .inr ⟨_, _, Nat.mul_pos (Nat.pos_of_ne_zero hx0) (Nat.pos_of_ne_zero hy0), rfl, ?_⟩
    rw [toRat_eq, toRat_eq, signFactor_bne, zpow_add₀ two_ne_zero]
    push_cast
    ring

/-- The quotient of two finite values by one that is not zero (R11): a zero or the exact quotient rounded once. -/
theorem fdiv_cases {x y : F64} (hx : isFinite x = true) (hy : isFinite y = true) (hy0 : toRat y ≠ 0) :
    (toRat x / toRat y = 0 ∧ fdiv x y = zero (signBit x != signBit y)) ∨
    ∃ (n d : ℕ) (e : ℤ), 0 < n ∧ 0 < d ∧ fdiv x y = roundToF64 (signBit x != signBit y) n d e ∧
      toRat x / toRat y = signFactor (signBit x != signBit y) * ((n : ℚ) / d * 2 ^ e) := by
  have hd : significand y ≠ 0 := fun h => hy0 ((toRat_eq_zero_iff y).mpr h)
  unfold fdiv
  simp only [isNaN_of_isFinite hx, isNaN_of_isFinite hy, isInf_of_isFinite hx, isInf_of_isFinite hy, Bool.or_self,
    Bool.false_eq_true, if_false, hd]
  split_ifs with h0
  · exact .inl ⟨by rw [(toRat_eq_zero_iff x).mpr h0, zero_div], rfl⟩
  · refine .inr ⟨_, _, _, Nat.pos_of_ne_zero h0, Nat.pos_of_ne_zero hd, rfl, ?_⟩
    rw [toRat_eq, toRat_eq, signFactor_bne, ← signFactor_div, zpow_sub₀ two_ne_zero, mul_div_mul_comm, mul_div_mul_comm]

/-- Settles O40. -/
theorem productsAndQuotientsAreCorrectlyRounded : Obligations.ProductsAndQuotientsAreCorrectlyRounded := by
  intro x y hx hy
  constructor
  · rcases fmul_cases hx hy with ⟨h0, hr⟩ | ⟨n, e, hn, hr, hv⟩
    · rw [h0, hr]
      exact ⟨roundedTo_zero _, signBit_zero _⟩
    · rw [hr, hv]
      exact ⟨roundedTo_roundToF64 _ hn one_pos e, signBit_roundToF64 _ _ _ _⟩
  · intro hy0
    rcases fdiv_cases hx hy hy0 with ⟨h0, hr⟩ | ⟨n, d, e, hn, hd, hr, hv⟩
    · rw [h0, hr]
      exact ⟨roundedTo_zero _, signBit_zero _⟩
    · rw [hr, hv]
      exact ⟨roundedTo_roundToF64 _ hn hd e, signBit_roundToF64 _ _ _ _⟩

end Sys2Proof.Machine
end

section
/-! PROOFS. Integers and binary64 (R11, R12, R14), and the loss of small increments (R219). -/

namespace Sys2Proof.Machine

/-- Below 2^53 the last place of an integer is a unit or less. -/
theorem lastPlace_of_lt {n : ℕ} (hn : 0 < n) (h : n < 2 ^ 53) : lastPlace n 1 0 ≤ 0 := by
  have hlow := (floorLog2_spec hn one_pos).1
  have hlt : (2 : ℚ) ^ floorLog2 n 1 < 2 ^ (53 : ℤ) := by
    calc (2 : ℚ) ^ floorLog2 n 1 ≤ (n : ℚ) / (1 : ℕ) := hlow
      _ = n := by simp
      _ < 2 ^ (53 : ℤ) := by exact_mod_cast h
  have hlog := (zpow_lt_zpow_iff_right₀ (by norm_num)).mp hlt
  unfold lastPlace
  omega

/-- Settles O41: an integer below 2^53 is an integer number of units of its last place. -/
theorem integerConversionIsExact : Obligations.IntegerConversionIsExact := by
  intro i hi
  unfold f64
  split_ifs with h0
  · simp [h0]
  · have hn : 0 < i.natAbs := Int.natAbs_pos.mpr h0
    have hlt : i.natAbs < 2 ^ 53 := by
      rw [Int.abs_eq_natAbs] at hi
      exact_mod_cast hi
    have hq := lastPlace_of_lt hn hlt
    have hunits : (i.natAbs : ℚ) / (1 : ℕ) * 2 ^ (0 : ℤ) =
        ((i.natAbs * 2 ^ (-lastPlace i.natAbs 1 0).toNat : ℤ) : ℚ) * 2 ^ lastPlace i.natAbs 1 0 := by
      push_cast
      rw [mul_assoc, ← zpow_natCast, ← zpow_add₀ two_ne_zero, Int.toNat_of_nonneg (by omega), neg_add_cancel]
      simp
    have hsmall : (i.natAbs : ℚ) / (1 : ℕ) * 2 ^ (0 : ℤ) < 2 ^ 1024 - 2 ^ 970 :=
      lt_overflowThreshold (by
        rw [Nat.cast_one, div_one, zpow_zero, mul_one]
        exact_mod_cast hlt)
    obtain ⟨hfin, hval⟩ := toRat_roundToF64_of_exact (decide (i < 0)) hn one_pos hunits hsmall
    refine ⟨hfin, ?_⟩
    rw [hval, Nat.cast_one, div_one, zpow_zero, mul_one, signFactor_mul_natAbs]

/-- The integer quotient truncated toward zero, over the rationals. -/
theorem tdiv_spec_of_nonneg {a : ℤ} (ha : 0 ≤ a) (d : ℕ) :
    0 ≤ ((a.tdiv d : ℤ) : ℚ) ∧ ((a.tdiv d : ℤ) : ℚ) ≤ a / d ∧ (a : ℚ) / d < (a.tdiv d : ℤ) + 1 := by
  have hquot : 0 ≤ (a : ℚ) / d := div_nonneg (by exact_mod_cast ha) d.cast_nonneg
  rw [Int.tdiv_eq_ediv_of_nonneg ha, ← Rat.floor_intCast_div_natCast]
  exact ⟨by exact_mod_cast Int.floor_nonneg.mpr hquot, Int.floor_le _, Int.lt_floor_add_one _⟩

/-- R12's integer, for a value written as a quotient. -/
theorem tdiv_spec (a : ℤ) (d : ℕ) :
    |((a.tdiv d : ℤ) : ℚ)| ≤ |(a : ℚ) / d| ∧ |(a : ℚ) / d - (a.tdiv d : ℤ)| < 1 ∧
      0 ≤ ((a.tdiv d : ℤ) : ℚ) * ((a : ℚ) / d) := by
  rcases le_total 0 a with ha | ha
  · obtain ⟨h0, hle, hlt⟩ := tdiv_spec_of_nonneg ha d
    refine ⟨abs_le_abs_of_nonneg h0 hle, ?_, mul_nonneg h0 (h0.trans hle)⟩
    rw [abs_of_nonneg (sub_nonneg.mpr hle)]
    linarith
  · obtain ⟨h0, hle, hlt⟩ := tdiv_spec_of_nonneg (neg_nonneg.mpr ha) d
    rw [Int.neg_tdiv] at h0 hle hlt
    push_cast [neg_div] at h0 hle hlt
    refine ⟨?_, ?_, mul_nonneg_of_nonpos_of_nonpos (by linarith) (by linarith)⟩
    · rw [abs_of_nonpos (by linarith), abs_of_nonpos (by linarith)]
      exact hle
    · rw [abs_of_nonpos (by linarith)]
      linarith

/-- A value as the quotient of integers that trunc divides. -/
theorem toRat_eq_truncQuotient (x : F64) :
    toRat x = (alignedTo (min (scale x) 0) x : ℚ) / ((2 ^ (-scale x).toNat : ℕ) : ℚ) := by
  have hnum : (min (scale x) 0).toNat = 0 := by omega
  have hden : (-min (scale x) 0).toNat = (-scale x).toNat := by omega
  rw [toRat_eq_alignedTo (min_le_left (scale x) 0), two_zpow_eq_div, hnum, hden, pow_zero, Nat.cast_one, mul_one_div]

/-- Settles O42. -/
theorem truncationIsTowardZero : Obligations.TruncationIsTowardZero := by
  intro x hx
  rw [toRat_eq_truncQuotient]
  exact ⟨_, if_pos hx, tdiv_spec _ _⟩

/-- The magnitude of a value as the quotient of naturals that roundIdx rounds. -/
theorem toRat_eq_roundQuotient (x : F64) : toRat x = signFactor (signBit x) *
    (((significand x * 2 ^ (scale x).toNat : ℕ) : ℚ) / ((2 ^ (-scale x).toNat : ℕ) : ℚ)) := by
  rw [toRat_eq, two_zpow_eq_div, Nat.cast_mul, mul_div_assoc]

/-- Settles O43: the sign leaves the distances and the parity that roundTie gives as they are. -/
theorem indexRoundingIsToNearest : Obligations.IndexRoundingIsToNearest := by
  intro tie x hx
  refine ⟨_, if_pos hx, ?_⟩
  obtain ⟨hnear, htie⟩ := roundTie_spec tie (significand x * 2 ^ (scale x).toNat)
    (Nat.two_pow_pos (-scale x).toNat)
  have hpos : (0 : ℚ) ≤ ((significand x * 2 ^ (scale x).toNat : ℕ) : ℚ) / ((2 ^ (-scale x).toNat : ℕ) : ℚ) := by
    positivity
  rw [toRat_eq_roundQuotient]
  generalize roundTie tie (significand x * 2 ^ (scale x).toNat) (2 ^ (-scale x).toNat) = m at hnear htie
  generalize ((significand x * 2 ^ (scale x).toNat : ℕ) : ℚ) / ((2 ^ (-scale x).toNat : ℕ) : ℚ) = t at hnear htie hpos
  have hint : (((if signBit x then -(m : ℤ) else m) : ℤ) : ℚ) = signFactor (signBit x) * m := by
    cases signBit x <;> simp
  have hpar : (if signBit x then -(m : ℤ) else m) % 2 = 0 ↔ m % 2 = 0 := by
    split_ifs <;> omega
  simp only [hint, hpar, ← mul_sub, abs_mul, abs_signFactor, one_mul, abs_of_nonneg hpos, Nat.abs_cast]
  rw [abs_sub_comm]
  exact ⟨hnear, htie⟩

/-- From 2^53 on a value is an even integer. -/
theorem exists_toRat_eq_two_mul {x : F64} (h : 2 ^ 53 ≤ toRat x) : ∃ j : ℤ, toRat x = 2 * j := by
  have hscale : 1 ≤ scale x := by
    have hlt : (2 : ℚ) ^ (53 : ℤ) < 2 ^ (scale x + 53) :=
      calc (2 : ℚ) ^ (53 : ℤ) ≤ toRat x := h
        _ ≤ |toRat x| := le_abs_self _
        _ < 2 ^ (scale x + 53) := abs_toRat_lt x
    have := (zpow_lt_zpow_iff_right₀ (by norm_num)).mp hlt
    omega
  exact ⟨alignedTo 1 x, by rw [toRat_eq_alignedTo hscale, zpow_one, mul_comm]⟩

/-- Settles O38: the rounded sum and x are even integers less than 2 apart. -/
theorem largePhasesLoseSmallIncrements : Obligations.LargePhasesLoseSmallIncrements := by
  intro x y hx hy hbig hy0 hy1
  have hsum : |toRat x + toRat y| < 2 ^ 1024 - 2 ^ 970 := by
    have hmax := (le_abs_self _).trans (abs_toRat_le hx)
    have hunit : (1 : ℚ) ≤ 2 ^ 970 := one_le_pow₀ (by norm_num)
    rw [abs_of_nonneg (by linarith), overflowThreshold_eq]
    rw [pow_succ' 2 970] at hmax
    generalize (2 : ℚ) ^ 970 = u at hunit hmax
    linarith
  have hround := roundedTo_fadd hx hy
  rw [RoundedTo, if_pos hsum] at hround
  obtain ⟨-, hnearest⟩ := hround
  have hdist : |toRat (fadd x y) - (toRat x + toRat y)| ≤ toRat y := by
    have := (hnearest x hx).1
    rwa [sub_add_cancel_left, abs_neg, abs_of_nonneg hy0] at this
  obtain ⟨hlow, hhigh⟩ := abs_le.mp hdist
  obtain ⟨i, hi⟩ := exists_toRat_eq_two_mul hbig
  obtain ⟨j, hj⟩ := exists_toRat_eq_two_mul (x := fadd x y) (by linarith)
  have hij : i ≤ j ∧ j < i + 1 := by
    constructor
    · exact_mod_cast (by linarith : (i : ℚ) ≤ j)
    · exact_mod_cast (by linarith : (j : ℚ) < i + 1)
  have hsame : toRat (fadd x y) = toRat x := by
    rw [hi, hj, show j = i by omega]
  exact eq_of_toRat_eq hsame (by linarith)

end Sys2Proof.Machine
end

section
/-! PROOFS. The order of binary64 values (R11) is that of the numbers they stand for, and the ranges that R186 checks with
it are ranges of rational numbers. -/

namespace Sys2Proof.Machine

/-- The 63 magnitude bits read as one number, as orderKey reads them. -/
def magnitude (x : F64) : ℕ := expField x * 2 ^ 52 + fracField x

theorem orderKey_eq (x : F64) : orderKey x = if signBit x then -(magnitude x : ℤ) else magnitude x := rfl

/-- The magnitude bits are the last place above the subnormal one and, below it, the significand. -/
theorem magnitude_eq (x : F64) : (magnitude x : ℤ) = (scale x + 1074) * 2 ^ 52 + significand x := by
  unfold magnitude scale significand
  split_ifs <;> omega

theorem magnitude_eq_of_abs_eq {x y : F64} (h : |toRat x| = |toRat y|) : magnitude x = magnitude y := by
  have hscale : scale x = scale y := le_antisymm (scale_le_scale h.le) (scale_le_scale h.ge)
  rw [abs_toRat, abs_toRat, hscale, mul_left_inj' (zpow_ne_zero _ two_ne_zero), Nat.cast_inj] at h
  have hx := magnitude_eq x
  have hy := magnitude_eq y
  rw [hscale, h] at hx
  omega

/-- A greater magnitude has a greater last place, or the same one and a greater significand. -/
theorem magnitude_lt_of_abs_lt {x y : F64} (h : |toRat x| < |toRat y|) : magnitude x < magnitude y := by
  have hx := magnitude_eq x
  have hy := magnitude_eq y
  rcases (scale_le_scale h.le).eq_or_lt with hscale | hscale
  · rw [abs_toRat, abs_toRat, hscale, mul_lt_mul_iff_left₀ (by positivity), Nat.cast_lt] at h
    rw [hscale] at hx
    omega
  · have hsig := significand_lt x
    have hlead := le_significand ((le_scale x).trans_lt hscale)
    omega

theorem magnitude_lt_iff (x y : F64) : magnitude x < magnitude y ↔ |toRat x| < |toRat y| := by
  refine ⟨fun h => ?_, magnitude_lt_of_abs_lt⟩
  by_contra hle
  rcases (not_lt.mp hle).eq_or_lt with heq | hlt
  · exact absurd (magnitude_eq_of_abs_eq heq) h.ne'
  · exact absurd (magnitude_lt_of_abs_lt hlt) h.asymm

theorem magnitude_eq_zero_iff (x : F64) : magnitude x = 0 ↔ toRat x = 0 := by
  have h := magnitude_lt_iff F64.posZero x
  have h0 : toRat F64.posZero = 0 := toRat_zero false
  rw [h0, abs_zero, abs_pos, show magnitude F64.posZero = 0 by decide] at h
  exact not_iff_not.mp (Nat.pos_iff_ne_zero.symm.trans h)

/-- The sign bit and the magnitude give the number. -/
theorem toRat_eq_sign_abs (x : F64) : toRat x = if signBit x then -|toRat x| else |toRat x| := by
  rw [abs_toRat, toRat_eq]
  cases signBit x <;> simp

/-- orderKey orders the values as the numbers they stand for, +0.0 and -0.0 being equal. -/
theorem orderKey_le_iff (x y : F64) : orderKey x ≤ orderKey y ↔ toRat x ≤ toRat y := by
  have hlt := magnitude_lt_iff x y
  have hgt := magnitude_lt_iff y x
  have hx0 := magnitude_eq_zero_iff x
  have hy0 := magnitude_eq_zero_iff y
  rw [orderKey_eq, orderKey_eq, toRat_eq_sign_abs x, toRat_eq_sign_abs y]
  rw [← abs_eq_zero] at hx0 hy0
  have hxn := abs_nonneg (toRat x)
  have hyn := abs_nonneg (toRat y)
  generalize |toRat x| = a at *
  generalize |toRat y| = b at *
  cases signBit x <;> cases signBit y <;> simp only [Bool.false_eq_true, if_true, if_false]
  case false.false => rw [Nat.cast_le, ← not_lt, hgt, not_lt]
  case true.true => rw [neg_le_neg_iff, neg_le_neg_iff, Nat.cast_le, ← not_lt, hlt, not_lt]
  case true.false => exact iff_of_true (by omega) (by linarith)
  case false.true =>
    constructor
    · intro h
      have ha := hx0.mp (by omega)
      have hb := hy0.mp (by omega)
      linarith
    · intro h
      have ha := hx0.mpr (by linarith)
      have hb := hy0.mpr (by linarith)
      omega

@[simp] theorem toRat_posZero : toRat F64.posZero = 0 := toRat_zero false

@[simp] theorem toRat_one : toRat F64.one = 1 := by decide +kernel

/-- Past every finite value lie the infinities and NaN only. -/
theorem isFinite_of_orderKey {x y : F64} (hy : isFinite y = true) (h0 : 0 ≤ orderKey x)
    (h : orderKey x ≤ orderKey y) : isFinite x = true := by
  rw [isFinite_iff] at hy ⊢
  have hyf := fracField_lt y
  rw [orderKey_eq] at h0
  rw [orderKey_eq, orderKey_eq] at h
  unfold magnitude at h0 h
  split_ifs at h0 h <;> omega

/-- fle is the order of the numbers, on operands that are no NaN. -/
theorem fle_iff (x y : F64) : fle x y = true ↔ isNaN x = false ∧ isNaN y = false ∧ toRat x ≤ toRat y := by
  rw [fle, Bool.and_eq_true, Bool.and_eq_true, Bool.not_eq_true', Bool.not_eq_true', decide_eq_true_iff,
    orderKey_le_iff, and_assoc]

/-- R186's "in [0.0, 1.0] (a NaN fails)", over the rational numbers. -/
theorem inUnit_iff (x : F64) : inUnit x = true ↔ UnitLevel x := by
  rw [inUnit, Bool.and_eq_true, fle_iff, fle_iff, toRat_posZero, toRat_one]
  constructor
  · rintro ⟨⟨-, -, hlow⟩, -, -, hhigh⟩
    have h0 : orderKey F64.posZero ≤ orderKey x := by rwa [orderKey_le_iff, toRat_posZero]
    have h1 : orderKey x ≤ orderKey F64.one := by rwa [orderKey_le_iff, toRat_one]
    exact ⟨isFinite_of_orderKey (by decide) h0 h1, hlow, hhigh⟩
  · rintro ⟨hfin, hlow, hhigh⟩
    exact ⟨⟨by decide, isNaN_of_isFinite hfin, hlow⟩, isNaN_of_isFinite hfin, by decide, hhigh⟩

/-- R62's "finite and above 0.0". -/
theorem isPositiveFinite_iff (x : F64) : isPositiveFinite x = true ↔ isFinite x = true ∧ 0 < toRat x := by
  have h := orderKey_le_iff x F64.posZero
  rw [toRat_posZero, show orderKey F64.posZero = 0 by decide] at h
  rw [isPositiveFinite, Bool.and_eq_true, decide_eq_true_iff, ← not_le, h, not_le]

end Sys2Proof.Machine
end

section
/-! PROOFS. Rounding near [0.0, 1.0] (R11): it keeps the range and moves a value by at most 2^-53. The level of a velocity
(R164). -/

namespace Sys2Proof.Machine

/-- Every value of [0, 1] is far below the overflow threshold. -/
theorem abs_lt_overflowThreshold {e : ℚ} (h0 : 0 ≤ e) (h1 : e ≤ 1) : |e| < 2 ^ 1024 - 2 ^ 970 := by
  rw [abs_of_nonneg h0]
  exact lt_overflowThreshold (h1.trans_lt (by norm_num))

/-- The nearest value passes no finite value that lies above the exact one. -/
theorem RoundedTo.le_of_le {e : ℚ} {r z : F64} (h : RoundedTo e r) (he : |e| < 2 ^ 1024 - 2 ^ 970)
    (hz : isFinite z = true) (hle : e ≤ toRat z) : toRat r ≤ toRat z := by
  rw [RoundedTo, if_pos he] at h
  have hnear := (h.2 z hz).1
  rw [abs_of_nonneg (sub_nonneg.mpr hle)] at hnear
  linarith [le_abs_self (toRat r - e)]

theorem RoundedTo.ge_of_ge {e : ℚ} {r z : F64} (h : RoundedTo e r) (he : |e| < 2 ^ 1024 - 2 ^ 970)
    (hz : isFinite z = true) (hle : toRat z ≤ e) : toRat z ≤ toRat r := by
  rw [RoundedTo, if_pos he] at h
  have hnear := (h.2 z hz).1
  rw [abs_of_nonpos (sub_nonpos.mpr hle)] at hnear
  linarith [neg_abs_le (toRat r - e)]

/-- Rounding keeps [0, 1], whose ends are binary64 values. -/
theorem RoundedTo.unitLevel {e : ℚ} {r : F64} (h : RoundedTo e r) (h0 : 0 ≤ e) (h1 : e ≤ 1) : UnitLevel r := by
  have he := abs_lt_overflowThreshold h0 h1
  have hlow := h.ge_of_ge he (z := F64.posZero) (by decide) (by rwa [toRat_posZero])
  have hhigh := h.le_of_le he (z := F64.one) (by decide) (by rwa [toRat_one])
  rw [toRat_posZero] at hlow
  rw [toRat_one] at hhigh
  rw [RoundedTo, if_pos he] at h
  exact ⟨h.1, hlow, hhigh⟩

/-- Half a unit of the last place of a value of at most 1. -/
theorem RoundedParts.abs_sub_le {v : ℚ} {a k : ℕ} (h : RoundedParts v a k) (hv : v ≤ 1) :
    |k * 2 ^ ((a : ℤ) - 1074) - v| ≤ 2 ^ (-53 : ℤ) := by
  have hpos : (0 : ℚ) < 2 ^ ((a : ℤ) - 1074) := by positivity
  have hlast : (2 : ℚ) ^ ((a : ℤ) - 1074) ≤ 2 ^ (-52 : ℤ) := by
    refine zpow_le_zpow_right₀ (by norm_num) ?_
    rcases Nat.eq_zero_or_pos a with ha | ha
    · omega
    · have hlead : (2 : ℚ) ^ ((a : ℤ) - 1074 + 52) ≤ 2 ^ (0 : ℤ) := by simpa using (h.le ha).trans hv
      have := (zpow_le_zpow_iff_right₀ (by norm_num)).mp hlead
      omega
  calc |k * 2 ^ ((a : ℤ) - 1074) - v|
      = |(k : ℚ) - v / 2 ^ ((a : ℤ) - 1074)| * 2 ^ ((a : ℤ) - 1074) := by
        rw [← abs_of_pos hpos, ← abs_mul, abs_of_pos hpos, sub_mul, div_mul_cancel₀ _ hpos.ne']
    _ ≤ 1 / 2 * 2 ^ (-52 : ℤ) := mul_le_mul h.nearest.1 hlast hpos.le (by norm_num)
    _ = 2 ^ (-53 : ℤ) := by norm_num

theorem abs_toRat_roundToF64_sub_le {n d : ℕ} (hn : 0 < n) (hd : 0 < d) (e : ℤ) (hv : (n : ℚ) / d * 2 ^ e ≤ 1) :
    |toRat (roundToF64 false n d e) - (n : ℚ) / d * 2 ^ e| ≤ 2 ^ (-53 : ℤ) := by
  obtain ⟨a, k, -, h, hr⟩ := roundToF64_parts false hn hd e
  obtain ⟨-, hval, -⟩ := h.finite_of_lt (lt_overflowThreshold (hv.trans_lt (by norm_num))) false
  rw [hr, hval, signFactor_false, one_mul]
  exact h.abs_sub_le hv

/-- A quotient that lies in [0, 1], to within 2^-53. -/
theorem abs_toRat_fdiv_sub_le {x y : F64} (hx : isFinite x = true) (hy : isFinite y = true) (hy0 : toRat y ≠ 0)
    (h0 : 0 ≤ toRat x / toRat y) (h1 : toRat x / toRat y ≤ 1) :
    |toRat (fdiv x y) - toRat x / toRat y| ≤ 2 ^ (-53 : ℤ) := by
  rcases fdiv_cases hx hy hy0 with ⟨hzero, hr⟩ | ⟨n, d, e, hn, hd, hr, hv⟩
  · rw [hr, hzero, toRat_zero, sub_zero, abs_zero]
    positivity
  · have hpos : 0 < (n : ℚ) / d * 2 ^ e := by positivity
    have hsign : (signBit x != signBit y) = false := by
      by_contra hneg
      rw [Bool.not_eq_false] at hneg
      rw [hneg, signFactor_true] at hv
      linarith
    rw [hsign, signFactor_false, one_mul] at hv
    rw [hsign] at hr
    rw [hr, hv]
    exact abs_toRat_roundToF64_sub_le hn hd e (hv ▸ h1)

/-- The quotient of two integers that binary64 holds exactly is rounded once. -/
theorem roundedTo_fdiv_f64 {i d : ℤ} (hi : |i| < 2 ^ 53) (hd : |d| < 2 ^ 53) (hd0 : d ≠ 0) :
    RoundedTo ((i : ℚ) / d) (fdiv (f64 i) (f64 d)) := by
  obtain ⟨hif, hiv⟩ := integerConversionIsExact i hi
  obtain ⟨hdf, hdv⟩ := integerConversionIsExact d hd
  have h := ((productsAndQuotientsAreCorrectlyRounded (f64 i) (f64 d) hif hdf).2 (by rw [hdv]; exact_mod_cast hd0)).1
  rwa [hiv, hdv] at h

/-- A quotient of integers n / d with 0 ≤ n ≤ d is a level. -/
theorem unitLevel_fdiv_f64 {n d : ℤ} (h0 : 0 ≤ n) (hnd : n ≤ d) (hd0 : 0 < d) (hd : d < 2 ^ 53) :
    UnitLevel (fdiv (f64 n) (f64 d)) := by
  have hd' : (0 : ℚ) < d := mod_cast hd0
  refine (roundedTo_fdiv_f64 (abs_lt.mpr ?_) (abs_lt.mpr ?_) hd0.ne').unitLevel ?_ ?_
  · omega
  · omega
  · exact div_nonneg (mod_cast h0) hd'.le
  · exact (div_le_one hd').mpr (mod_cast hnd)

theorem oneTwentySeven_eq : F64.oneTwentySeven = f64 127 := by decide +kernel

/-- R164's level of a velocity that fits its field. -/
theorem unitLevel_velocityLevel {v : ℕ} (hv : v ≤ 127) : UnitLevel (velocityLevel v) := by
  rw [velocityLevel, oneTwentySeven_eq]
  exact unitLevel_fdiv_f64 (by omega) (by omega) (by norm_num) (by norm_num)

/-- The level of a velocity is v / 127 to within 2^-53. -/
theorem abs_velocityLevel_sub_le {v : ℕ} (hv : v ≤ 127) :
    |toRat (velocityLevel v) - (v : ℚ) / 127| ≤ 2 ^ (-53 : ℤ) := by
  obtain ⟨hvf, hvv⟩ := integerConversionIsExact v (abs_lt.mpr (by omega))
  obtain ⟨hdf, hdv⟩ := integerConversionIsExact 127 (by norm_num)
  have hle : (v : ℚ) ≤ 127 := mod_cast hv
  have hquot : toRat (f64 v) / toRat (f64 127) = (v : ℚ) / 127 := by
    rw [hvv, hdv, Int.cast_natCast, Int.cast_ofNat]
  have h := abs_toRat_fdiv_sub_le hvf hdf (by rw [hdv]; norm_num)
    (by rw [hquot]; positivity) (by rw [hquot]; exact (div_le_one (by norm_num)).mpr hle)
  rwa [hquot, ← oneTwentySeven_eq] at h

/-- Settles O29: the levels of two velocities lie at least 1/127 apart before rounding, which moves each by 2^-53 at
most. -/
theorem velocityLevelsLieInUnitRange : Obligations.VelocityLevelsLieInUnitRange := by
  refine ⟨fun v hv => unitLevel_velocityLevel hv, fun v v' hlt hv' => ?_, by decide +kernel, by decide +kernel⟩
  change toRat (velocityLevel v) < toRat (velocityLevel v')
  have hlow := (abs_le.mp (abs_velocityLevel_sub_le (hlt.le.trans hv'))).2
  have hhigh := (abs_le.mp (abs_velocityLevel_sub_le hv')).1
  have hgap : (v : ℚ) / 127 + 1 / 127 ≤ v' / 127 := by
    rw [← add_div]
    exact div_le_div_of_nonneg_right (mod_cast hlt) (by norm_num)
  have hsmall : (2 : ℚ) ^ (-53 : ℤ) < 1 / 127 / 2 := by norm_num
  linarith

end Sys2Proof.Machine
end

section
/-! PROOFS. Where the arithmetic of R11 gives no NaN. -/

namespace Sys2Proof.Machine

theorem isNaN_ofMagnitude (neg : Bool) {mag : ℕ} (h : mag ≤ infMagnitude) : isNaN (ofMagnitude neg mag) = false := by
  unfold infMagnitude at h
  rw [isNaN, expField_ofMagnitude neg (by omega), fracField_ofMagnitude neg (by omega), Bool.and_eq_false_iff,
    beq_eq_false_iff_ne, bne_eq_false_iff_eq]
  omega

@[simp] theorem isNaN_zero (neg : Bool) : isNaN (zero neg) = false := isNaN_ofMagnitude neg (Nat.zero_le _)

@[simp] theorem isNaN_infinity (neg : Bool) : isNaN (infinity neg) = false := isNaN_ofMagnitude neg le_rfl

@[simp] theorem isNaN_roundToF64 (neg : Bool) (n d : ℕ) (e : ℤ) : isNaN (roundToF64 neg n d e) = false :=
  isNaN_ofMagnitude neg (min_le_right _ _)

/-- A value that is no NaN is finite or an infinity. -/
theorem isFinite_or_isInf {x : F64} (h : isNaN x = false) : isFinite x = true ∨ isInf x = true := by
  unfold isNaN at h
  unfold isFinite isInf
  by_cases he : expField x = 2047 <;> simp_all

@[simp] theorem isFinite_quietNaN (x y : F64) : isFinite (quietNaN x y) = false := by
  have hexp : BitVec.extractLsb' 52 11 0x7FF8000000000000#64 = BitVec.allOnes 11 := by decide
  rw [isFinite, expField, quietNaN, BitVec.extractLsb'_or, hexp, BitVec.or_allOnes]
  decide

/-- A sum is finite only where its first operand is. -/
theorem isFinite_of_isFinite_fadd {x y : F64} (h : isFinite (fadd x y) = true) : isFinite x = true := by
  cases hx : isNaN x with
  | true => simp [fadd, hx] at h
  | false =>
    refine (isFinite_or_isInf hx).resolve_right fun hinf => ?_
    have hfin : isFinite x = false := by simp_all [isFinite, isInf]
    unfold fadd at h
    split_ifs at h <;> simp_all

/-- A finite value plus one that is no NaN. -/
theorem isNaN_fadd {x y : F64} (hx : isFinite x = true) (hy : isNaN y = false) : isNaN (fadd x y) = false := by
  rcases isFinite_or_isInf hy with hfin | hinf
  · rcases fadd_cases hx hfin with ⟨-, hr⟩ | ⟨-, neg, n, e, -, hr, -⟩ <;> simp [hr]
  · simp [fadd, isNaN_of_isFinite hx, isInf_of_isFinite hx, hy, hinf]

/-- A product of finite values. -/
theorem isNaN_fmul {x y : F64} (hx : isFinite x = true) (hy : isFinite y = true) : isNaN (fmul x y) = false := by
  rcases fmul_cases hx hy with ⟨-, hr⟩ | ⟨n, e, -, hr, -⟩ <;> simp [hr]

/-- A finite value that is not zero times one that is no NaN. -/
theorem isNaN_fmul_of_ne_zero {x y : F64} (hx : isFinite x = true) (h0 : toRat x ≠ 0) (hy : isNaN y = false) :
    isNaN (fmul x y) = false := by
  rcases isFinite_or_isInf hy with hfin | hinf
  · exact isNaN_fmul hx hfin
  · have hsig : significand x ≠ 0 := fun h => h0 ((toRat_eq_zero_iff x).mpr h)
    have hyfin : isFinite y = false := by simp_all [isFinite, isInf]
    simp [fmul, isNaN_of_isFinite hx, isInf_of_isFinite hx, hy, hinf, hsig, hyfin]

/-- A value that is no NaN divided by a finite one that is not zero. -/
theorem isNaN_fdiv {x y : F64} (hx : isNaN x = false) (hy : isFinite y = true) (h0 : toRat y ≠ 0) :
    isNaN (fdiv x y) = false := by
  rcases isFinite_or_isInf hx with hfin | hinf
  · rcases fdiv_cases hfin hy h0 with ⟨-, hr⟩ | ⟨n, d, e, -, -, hr, -⟩ <;> simp [hr]
  · simp [fdiv, isNaN_of_isFinite hy, isInf_of_isFinite hy, hx, hinf]

/-- A finite position is read from a finite PHASE (R122). -/
theorem isFinite_phase_of_roundIdx {g : GlobalConfig} {m idx : Int} {o : Operator}
    (h : roundIdx g.idxTie (readPosition g m o) = some idx) : isFinite o.phase = true := by
  refine isFinite_of_isFinite_fadd (y := phaseOffset g m) ?_
  by_contra hfin
  simp [roundIdx, readPosition, hfin] at h

end Sys2Proof.Machine
end

section
/-! PROOFS. What R186 checks, in the words of the claims (R8, R9), and the state that reset leaves (R210). -/

namespace Sys2Proof.Machine

theorem opConfigLegal_iff (o : OpConfig) : opConfigLegal o = true ↔ OpConfigOk o := by
  simp only [opConfigLegal, Bool.and_eq_true, decide_eq_true_iff, inUnit_iff]
  constructor
  · rintro ⟨⟨⟨⟨⟨ha, ha'⟩, hd⟩, hd'⟩, hvol⟩, hrate⟩
    exact ⟨by omega, by omega, hvol, hrate⟩
  · rintro ⟨ha, hd, hvol, hrate⟩
    exact ⟨⟨⟨⟨⟨by omega, by omega⟩, by omega⟩, by omega⟩, hvol⟩, hrate⟩

/-- A key holds an entry of NOTE_FREQ or none (R62). -/
theorem noteLookup_eq_some {g : GlobalConfig} {n : ℕ} {f : F64} :
    noteLookup g n = some f ↔ g.noteFreq[n]? = some (some f) := by
  rw [noteLookup, Option.join_eq_some_iff]

/-- R186 check 3 on NOTE_FREQ, key by key. -/
theorem noteFreqLegal_iff (g : GlobalConfig) : noteFreqLegal g.noteFreq = true ↔
    (∀ n f, noteLookup g n = some f → isFinite f = true ∧ 0 < toRat f) ∧
      ∀ n, 128 ≤ n → noteLookup g n = none := by
  rw [noteFreqLegal, Bool.and_eq_true, List.all_eq_true, List.all_eq_true]
  refine and_congr ⟨fun h n f hf => ?_, fun h e he => ?_⟩ ⟨fun h n hn => ?_, fun h e he => ?_⟩
  · exact (isPositiveFinite_iff f).mp (h _ (List.mem_of_getElem? (noteLookup_eq_some.mp hf)))
  · cases e with
    | none => rfl
    | some f =>
      obtain ⟨n, hn⟩ := List.mem_iff_getElem?.mp he
      exact (isPositiveFinite_iff f).mpr (h n f (noteLookup_eq_some.mpr hn))
  · by_contra hne
    obtain ⟨f, hf⟩ := Option.ne_none_iff_exists'.mp hne
    have hdrop : (g.noteFreq.drop 128)[n - 128]? = some (some f) := by
      rw [List.getElem?_drop, Nat.add_sub_cancel' hn]
      exact noteLookup_eq_some.mp hf
    exact absurd (h _ (List.mem_of_getElem? hdrop)) (by simp)
  · cases e with
    | none => rfl
    | some f =>
      obtain ⟨n, hn⟩ := List.mem_iff_getElem?.mp he
      rw [List.getElem?_drop] at hn
      have hnone := h (128 + n) (Nat.le_add_right _ _)
      rw [noteLookup_eq_some.mpr hn] at hnone
      cases hnone

/-- R186 check 3 on the shared registers, for a record that lists its L entries. -/
theorem sharedLegal_iff {g : GlobalConfig} (hlen : g.wtLen = g.wt.length) : sharedLegal g = true ↔ SharedOk g := by
  have hwt : g.wt.take g.wtLen.toNat = g.wt := List.take_of_length_le (by omega)
  simp only [sharedLegal, Bool.and_eq_true, Bool.or_eq_true, decide_eq_true_iff, inUnit_iff, noteFreqLegal_iff,
    commitMode_isListed_iff, idxTie_isListed_iff, List.all_eq_true]
  constructor
  · rintro ⟨⟨⟨⟨⟨⟨⟨⟨⟨⟨⟨⟨hsr, hsr'⟩, hlen1⟩, hlen2⟩, hent⟩, hnote⟩, hmax⟩, hmax'⟩, hpitch⟩, hvol⟩, hmode⟩, hsat⟩, htie⟩
    exact ⟨by omega, ⟨hlen1, hlen2⟩, by rwa [hwt], hnote.1, hnote.2, by omega, hpitch, hvol, hmode, hsat, htie⟩
  · rintro ⟨hsr, ⟨hlen1, hlen2⟩, hent, hnote, hkeys, hmax, hpitch, hvol, hmode, hsat, htie⟩
    rw [hwt] at hent
    exact ⟨⟨⟨⟨⟨⟨⟨⟨⟨⟨⟨⟨by omega, by omega⟩, hlen1⟩, hlen2⟩, hent⟩, hnote, hkeys⟩, by omega⟩, by omega⟩, hpitch⟩, hvol⟩,
      hmode⟩, hsat⟩, htie⟩

theorem voiceConfigLegal_iff (v : VoiceConfig) :
    voiceConfigLegal v = true ↔ OpConfigOk v.op1 ∧ OpConfigOk v.op2 ∧ OpConfigOk v.op3 := by
  simp only [voiceConfigLegal, Bool.and_eq_true, opConfigLegal_iff, and_assoc]

/-- A record passes R186 where none of its checks fails. -/
theorem legal_iff_checks (c : Config) : Legal c ↔ polyphonyLegal c = true ∧ algLegal c = true ∧
    (recordComplete c && sharedLegal c.shared && c.voices.all voiceConfigLegal) = true := by
  unfold Legal validate
  generalize (recordComplete c && sharedLegal c.shared && c.voices.all voiceConfigLegal) = ranges
  split_ifs <;> simp_all

/-- A record passes R186 exactly where its three checks and the model's completeness hold (log 12). -/
theorem legal_iff (c : Config) : Legal c ↔ PolyphonyOk c ∧ AlgOk c ∧ Complete c ∧ RangesOk c := by
  rw [legal_iff_checks, polyphonyLegal_iff, algLegal_iff, Bool.and_eq_true, Bool.and_eq_true, recordComplete_iff,
    and_assoc]
  refine and_congr_right fun _ => and_congr_right fun _ => and_congr_right fun hcomplete => ?_
  obtain ⟨hp, hl⟩ := hcomplete
  have htake : c.voices.take c.shared.polyphony.toNat = c.voices := List.take_of_length_le (by omega)
  rw [RangesOk, htake, sharedLegal_iff hl, List.all_eq_true]
  simp only [voiceConfigLegal_iff]

/-- The record of a legal machine, seen from one of its operators. -/
theorem Legal.opConfigOk {s : State} (h : Legal s.config) {x : Voice} (hx : x ∈ s.voices) (k : OpIx) :
    OpConfigOk (voiceOp x k).cfg := by
  obtain ⟨-, -, ⟨hp, -⟩, -, hvoices⟩ := (legal_iff s.config).mp h
  have htake : s.config.voices.take s.config.shared.polyphony.toNat = s.config.voices :=
    List.take_of_length_le (by omega)
  rw [htake] at hvoices
  obtain ⟨h1, h2, h3⟩ := hvoices x.config (List.mem_map_of_mem hx)
  cases k
  · exact h1
  · exact h2
  · exact h3

theorem Legal.sharedOk {s : State} (h : Legal s.config) : SharedOk s.shared := by
  obtain ⟨-, -, -, hshared, -⟩ := (legal_iff s.config).mp h
  exact hshared

theorem Legal.polyphony_le {s : State} (h : Legal s.config) : 1 ≤ s.polyphony ∧ s.polyphony ≤ 255 := by
  obtain ⟨⟨h1, h255⟩, -⟩ := (legal_iff s.config).mp h
  rw [State.config_shared] at h1 h255
  unfold State.polyphony
  omega

@[simp] theorem faultBits_eq_zero_iff (code : FaultCode) : faultBits code = 0#4 ↔ code = .none := by
  cases code <;> decide

theorem faultBits_toNat_le (code : FaultCode) : (faultBits code).toNat ≤ 7 := by
  cases code <;> decide

@[simp] theorem State.config_resetWith (c : Config) : (State.resetWith c).config = c := by
  simp [State.config, State.resetWith, Function.comp_def]

/-- FAULT = 0 after reset says that the record passed R186 (R24, R210). -/
theorem legal_of_resetWith_fault {c : Config} (h : (State.resetWith c).fault = 0#4) :
    Legal (State.resetWith c).config := by
  rw [State.config_resetWith]
  exact (faultBits_eq_zero_iff _).mp h

/-- An operator of the state after reset is one of R210, made of the record. -/
theorem voiceOp_ofConfig (g : GlobalConfig) (v : VoiceConfig) (k : OpIx) :
    ∃ o, voiceOp (Voice.ofConfig g v) k = Operator.ofConfig g o := by
  cases k <;> exact ⟨_, rfl⟩

/-- The levels of R210 are those of the record, and a zero. -/
theorem levelsOk_ofConfig {g : GlobalConfig} (hg : SharedOk g) (o : OpConfig) : LevelsOk (Operator.ofConfig g o) where
  noteVol := hg.initNoteVol
  envCur := (inUnit_iff F64.posZero).mp (by decide)
  terminal _ := toRat_posZero
  pitch := isNaN_of_isFinite hg.initPitch
  phase := show isNaN F64.posZero = false by decide

/-- ENV_N = 0 is in its range under a legal record (R30). -/
theorem envNOk_of_zero {o : Operator} (hcfg : OpConfigOk o.cfg) (h : o.envN = 0#34) : EnvNOk o := by
  obtain ⟨ha, -⟩ := hcfg.attack
  obtain ⟨hd, -⟩ := hcfg.decay
  rw [EnvNOk, h, BitVec.toInt_zero]
  omega

theorem resetWith_inOrder (c : Config) : InOrder (State.resetWith c) where
  code := faultBits_toNat_le _
  legal := legal_of_resetWith_fault
  voice h := (legal_of_resetWith_fault h).polyphony_le.1
  envN h x hx k := by
    have hcfg := (legal_of_resetWith_fault h).opConfigOk hx k
    obtain ⟨v, -, rfl⟩ := List.mem_map.mp hx
    obtain ⟨o, ho⟩ := voiceOp_ofConfig c.shared v k
    exact envNOk_of_zero hcfg (by rw [ho]; rfl)

theorem resetWith_inLevel (c : Config) : InLevel (State.resetWith c) := by
  intro h x hx k
  obtain ⟨v, -, rfl⟩ := List.mem_map.mp hx
  obtain ⟨o, ho⟩ := voiceOp_ofConfig c.shared v k
  rw [ho]
  exact levelsOk_ofConfig (legal_of_resetWith_fault h).sharedOk o

/-- Settles O19: FAULT = 0 after reset says that the record is legal, and R210 puts every element into its range. -/
theorem resetStateIsInOrder : Obligations.ResetStateIsInOrder :=
  fun c => ⟨resetWith_inOrder c, resetWith_inLevel c⟩

end Sys2Proof.Machine
end

section
/-! PROOFS. Which instructions write PRIMED and RR (R23, R25). -/

namespace Sys2Proof.Machine

theorem execPrime_rr {s t : State} (h : execPrime s = .next t) : t.rr = s.rr := by
  rcases execPrime_cases h with ⟨-, rfl⟩ | ⟨-, -, rfl⟩ | ⟨-, -, rfl⟩ <;> rfl

/-- PRIME leaves PRIMED as it is or sets it. -/
theorem execPrime_primed {s t : State} (h : execPrime s = .next t) (hs : s.primed = true) : t.primed = true := by
  rcases execPrime_cases h with ⟨-, rfl⟩ | ⟨-, -, rfl⟩ | ⟨-, -, rfl⟩
  · exact hs
  · exact hs
  · rfl

theorem execNoteOn_primed {n v : Nat} {s t : State} (h : execNoteOn n v s = .next t) : t.primed = s.primed := by
  rcases execNoteOn_cases h with ⟨-, rfl⟩ | ⟨-, -, rfl⟩ | ⟨f, -, -, -, -, rfl⟩ <;> rfl

/-- A PULL leaves PRIMED, and RR where no NOTE_ON can overlap it (R71). -/
theorem execPull_primed_rr {f : Nat} {s t : State} (h : execPull f s = .next t) :
    t.primed = s.primed ∧ (t.rr = s.rr ∨ t.rr = (overlapsOf s).2.1) := by
  rcases execPull_cases h with ⟨-, rfl⟩ | ⟨-, -, rfl⟩ | ⟨-, -, -, rfl⟩ | ⟨-, -, -, hrender⟩
  · exact ⟨rfl, .inl rfl⟩
  · exact ⟨rfl, .inl rfl⟩
  · exact ⟨rfl, .inl rfl⟩
  · rcases renderPull_cases hrender with ⟨bs, vs, -, rfl⟩ | ⟨r, -, rfl⟩
    · exact ⟨rfl, .inr rfl⟩
    · exact ⟨rfl, .inr rfl⟩

theorem routeWith_primed_rr {route : Routing} {s t : State} (h : routeWith route s = .next t) :
    t.primed = s.primed ∧ t.rr = s.rr := by
  rcases routeWith_cases h with ⟨c, -, -, rfl⟩ | ⟨c, x, -, -, -, ⟨b, y, -, rfl⟩ | ⟨r, -, rfl⟩⟩ <;> exact ⟨rfl, rfl⟩

theorem overlapsOf_of_bufferAtomic {s : State} (h : s.shared.commitMode = .bufferAtomic) :
    overlapsOf s = ([], s.rr, s.host) := by
  rw [overlapsOf, h]

theorem overlapsOf_of_fieldRacy {s : State} (h : s.shared.commitMode = .fieldRacy) :
    overlapsOf s = collectOverlaps s.shared s.polyphony s.rr s.host := by
  rw [overlapsOf, h]

/-- Every instruction but PRIME leaves PRIMED as it is. -/
theorem exec_primed {i : Instr} {s t : State} (h : exec i s = .next t) (hi : i ≠ .prime) : t.primed = s.primed := by
  cases i with
  | prime => exact absurd rfl hi
  | pull frames => exact (execPull_primed_rr h).1
  | noteOn note vel => exact execNoteOn_primed h
  | alg0 => exact (routeWith_primed_rr (route := routeAlg0) h).1
  | alg1 => exact (routeWith_primed_rr (route := routeAlg1) h).1
  | alg2 => exact (routeWith_primed_rr (route := routeAlg2) h).1
  | alg3 => exact (routeWith_primed_rr (route := routeAlg3) h).1
  | alg4 => exact (routeWith_primed_rr (route := routeAlg4) h).1

/-- Settles O23. -/
theorem primedIsWrittenOnlyByPrime : Obligations.PrimedIsWrittenOnlyByPrime := by
  intro i s t h
  by_cases hi : i = .prime
  · subst hi
    exact ⟨execPrime_primed h, fun _ => rfl⟩
  · have hkeep := exec_primed h hi
    exact ⟨fun hs => hkeep.trans hs, fun hne => absurd hkeep hne⟩

/-- A NOTE_ON that changes RR has hit (R164, R165). -/
theorem execNoteOn_rr {n v : Nat} {s t : State} (h : execNoteOn n v s = .next t) (hne : t.rr ≠ s.rr) :
    ∃ f, noteLookup s.shared n = some f ∧ t.rr = nextRR s.polyphony s.rr := by
  rcases execNoteOn_cases h with ⟨-, rfl⟩ | ⟨-, -, rfl⟩ | ⟨f, -, hf, -, -, rfl⟩
  · exact absurd rfl hne
  · exact absurd rfl hne
  · exact ⟨f, hf, rfl⟩

/-- Settles O24: with no NOTE_ON overlapping, a PULL leaves RR too. -/
theorem roundRobinIsWrittenOnlyByAHit : Obligations.RoundRobinIsWrittenOnlyByAHit := by
  intro i s t hmode h hne
  cases i with
  | prime => exact absurd (execPrime_rr h) hne
  | pull frames =>
    have hrr := (execPull_primed_rr h).2
    rw [overlapsOf_of_bufferAtomic hmode, or_self] at hrr
    exact absurd hrr hne
  | noteOn note vel =>
    obtain ⟨f, hf, hrr⟩ := execNoteOn_rr h hne
    exact ⟨note, vel, f, rfl, hf, hrr⟩
  | alg0 => exact absurd (routeWith_primed_rr (route := routeAlg0) h).2 hne
  | alg1 => exact absurd (routeWith_primed_rr (route := routeAlg1) h).2 hne
  | alg2 => exact absurd (routeWith_primed_rr (route := routeAlg2) h).2 hne
  | alg3 => exact absurd (routeWith_primed_rr (route := routeAlg3) h).2 hne
  | alg4 => exact absurd (routeWith_primed_rr (route := routeAlg4) h).2 hne

end Sys2Proof.Machine
end

section
/-! PROOFS. What a rendering does to the operators (R101, R126, R141): each rendered voice is OP_RENDER on its operators,
and OP_RENDER is one induction over its micro-steps. -/

namespace Sys2Proof.Machine

/-- y is the voice x, numbered v, with each operator as some OP_RENDER leaves it. -/
def OpsRendered (c : RenderContext) (v : Nat) (x y : Voice) : Prop :=
  ∀ k, ∃ m out, opRender c ⟨v, k⟩ m (voiceOp x k) = .done (out, voiceOp y k)

/-- A routing datapath renders operators 2 and 1 of its voice and leaves operator 3. -/
def RendersCarriers (route : Routing) : Prop :=
  ∀ c v out3 x b y, route c v out3 x = .done (b, y) →
    y.op3 = x.op3 ∧ ∀ k, k ≠ .op3 → ∃ m out, opRender c ⟨v, k⟩ m (voiceOp x k) = .done (out, voiceOp y k)

/-- R142 to R146: whatever the modulators and the output are. -/
theorem renderCarriers_ops {c : RenderContext} {v : Nat} {m2 : Buffer} {m1 : Buffer → Buffer}
    {vout : Buffer → Buffer → Buffer} {x y : Voice} {b : Buffer}
    (h : renderCarriers c v m2 m1 vout x = .done (b, y)) :
    y.op3 = x.op3 ∧ ∀ k, k ≠ .op3 → ∃ m out, opRender c ⟨v, k⟩ m (voiceOp x k) = .done (out, voiceOp y k) := by
  obtain ⟨out2, o2, out1, o1, h2, h1, -, rfl⟩ := renderCarriers_eq_done.mp h
  refine ⟨rfl, fun k hk => ?_⟩
  cases k with
  | op1 => exact ⟨_, _, h1⟩
  | op2 => exact ⟨_, _, h2⟩
  | op3 => exact absurd rfl hk

theorem routeSelected_rendersCarriers : RendersCarriers routeSelected := by
  intro c v out3 x b y h
  unfold routeSelected at h
  split at h
  · exact renderCarriers_ops h
  · exact renderCarriers_ops h
  · exact renderCarriers_ops h
  · exact renderCarriers_ops h
  · exact renderCarriers_ops h
  · cases h

/-- VOICE_RENDER renders every operator of its voice once (R141). -/
theorem voiceRender_ops {c : RenderContext} {v f : Nat} {x y : Voice} {b : Buffer}
    (h : voiceRender c v f x = .done (b, y)) : OpsRendered c v x y := by
  obtain ⟨⟨out3, o3⟩, h3, hroute⟩ := Rendered.andThen_eq_done.mp h
  obtain ⟨hop3, hcarriers⟩ := routeSelected_rendersCarriers _ _ _ _ _ _ hroute
  intro k
  cases k with
  | op1 => exact hcarriers .op1 (by decide)
  | op2 => exact hcarriers .op2 (by decide)
  | op3 => exact ⟨_, _, by rw [voiceOp_op3, voiceOp_op3, hop3]; exact h3⟩

/-- The voices of a PULL, each rendered under its own number (R101). -/
theorem renderVoices_ops {c : RenderContext} {f : Nat} {xs : List Voice} :
    ∀ {v : Nat} {ys : List Voice} {bs : List Buffer}, renderVoices c f v xs = .done (bs, ys) →
      ys.length = xs.length ∧
        ∀ j x y, xs[j]? = some x → ys[j]? = some y → OpsRendered c (v + j) x y := by
  induction xs with
  | nil =>
    intro v ys bs h
    simp only [renderVoices, Rendered.done.injEq, Prod.mk.injEq] at h
    rw [← h.2]
    exact ⟨rfl, fun j x y hx => by simp at hx⟩
  | cons x xs ih =>
    intro v ys bs h
    obtain ⟨b, y, bs', ys', hx, hxs, -, rfl⟩ := renderVoices_cons_eq_done.mp h
    obtain ⟨hlen, hops⟩ := ih hxs
    refine ⟨by simp [hlen], fun j x' y' hx' hy' => ?_⟩
    cases j with
    | zero =>
      obtain rfl : x = x' := by simpa using hx'
      obtain rfl : y = y' := by simpa using hy'
      exact voiceRender_ops hx
    | succ j =>
      rw [← Nat.add_assoc, Nat.add_right_comm]
      exact hops j x' y' (by simpa using hx') (by simpa using hy')

/-- What holds of the pending writes and the operator between two micro-steps of a rendering (R71, R126), and what it then
says of the operator at the end of the PULL. -/
structure RenderInvariant (g : GlobalConfig) (between : PendingWrites → Operator → Prop) (after : Operator → Prop) :
    Prop where
  due : ∀ t p o, between p o → between (landDue t p o).2 (landDue t p o).1
  sample : ∀ r m y p o o', between p o → sampleStep g r m o = .done (y, o') → between p o'
  finish : ∀ p o, between p o → after (landAll p (endOfBuffer o))

theorem RenderInvariant.renderSamples {g : GlobalConfig} {between : PendingWrites → Operator → Prop}
    {after : Operator → Prop} (hinv : RenderInvariant g between after) {r : OpRef} {m : Buffer} :
    ∀ {p : PendingWrites} {t : Nat} {o o' : Operator} {out : Buffer},
      between p o → renderSamples g r p t m o = .done (out, o') → after o' := by
  induction m with
  | nil =>
    intro p t o o' out hp h
    simp only [Machine.renderSamples, Rendered.done.injEq, Prod.mk.injEq] at h
    rw [← h.2]
    exact hinv.finish _ _ (hinv.due t p o hp)
  | cons x xs ih =>
    intro p t o o' out hp h
    obtain ⟨y, o1, ys, hstep, hrest, -⟩ := renderSamples_cons_eq_done.mp h
    exact ih (hinv.sample _ _ _ _ _ _ (hinv.due t p o hp) hstep) hrest

theorem RenderInvariant.opRender {c : RenderContext} {between : PendingWrites → Operator → Prop}
    {after : Operator → Prop} (hinv : RenderInvariant c.shared between after) {r : OpRef} {m out : Buffer}
    {o o' : Operator} (h : opRender c r m o = .done (out, o'))
    (hstart : between (pendingFor c.overlaps r o.cfg.rate) o) : after o' :=
  hinv.renderSamples hstart h

end Sys2Proof.Machine
end

section
/-! PROOFS. The NOTE_ONs that overlap a PULL (R71): which of the host's events they are, what they do to RR, and what they
carry. -/

namespace Sys2Proof.Machine

/-- The host issues a NOTE_ON while a PULL is in progress (R71). -/
def IsNoteOnDuring (ev : HostEvent) : Prop := ∃ w l n v, ev = .during w l ∧ decode w = .ok (.noteOn n v)

/-- A NOTE_ON issued during the PULL that hits (R71, R164). -/
theorem collectOverlaps_hit {g : GlobalConfig} {w : Word} {n v : Nat} {f : F64} (hd : decode w = .ok (.noteOn n v))
    (hf : noteLookup g n = some f) (p : Nat) (rr : BitVec 8) (l : NoteLanding) (evs : List HostEvent) :
    collectOverlaps g p rr (.during w l :: evs) =
      ({ voice := rr.toNat, freq := f, vol := velocityLevel v, landing := l } ::
        (collectOverlaps g p (nextRR p rr) evs).1, (collectOverlaps g p (nextRR p rr) evs).2) := by
  simp [collectOverlaps, hd, hf]

/-- One that misses changes nothing (R165). -/
theorem collectOverlaps_miss {g : GlobalConfig} {w : Word} {n v : Nat} (hd : decode w = .ok (.noteOn n v))
    (hf : noteLookup g n = none) (p : Nat) (rr : BitVec 8) (l : NoteLanding) (evs : List HostEvent) :
    collectOverlaps g p rr (.during w l :: evs) = collectOverlaps g p rr evs := by
  simp [collectOverlaps, hd, hf]

/-- What the host's first event can be for a PULL in progress: a hit, a miss, or no overlapping NOTE_ON. -/
theorem collectOverlaps_cons_cases (g : GlobalConfig) (p : Nat) (rr : BitVec 8) (ev : HostEvent)
    (evs : List HostEvent) :
    (∃ w l n v f, ev = .during w l ∧ decode w = .ok (.noteOn n v) ∧ noteLookup g n = some f ∧
      collectOverlaps g p rr (ev :: evs) =
        ({ voice := rr.toNat, freq := f, vol := velocityLevel v, landing := l } ::
          (collectOverlaps g p (nextRR p rr) evs).1, (collectOverlaps g p (nextRR p rr) evs).2)) ∨
    (∃ w l n v, ev = .during w l ∧ decode w = .ok (.noteOn n v) ∧ noteLookup g n = none ∧
      collectOverlaps g p rr (ev :: evs) = collectOverlaps g p rr evs) ∨
    (¬IsNoteOnDuring ev ∧ collectOverlaps g p rr (ev :: evs) = ([], rr, ev :: evs)) := by
  cases ev with
  | command w => exact .inr (.inr ⟨(by rintro ⟨_, _, _, _, h, -⟩; cases h), by simp [collectOverlaps]⟩)
  | reset c => exact .inr (.inr ⟨(by rintro ⟨_, _, _, _, h, -⟩; cases h), by simp [collectOverlaps]⟩)
  | during w l =>
    by_cases hnote : ∃ n v, decode w = .ok (.noteOn n v)
    · obtain ⟨n, v, hd⟩ := hnote
      cases hf : noteLookup g n with
      | none => exact .inr (.inl ⟨w, l, n, v, rfl, hd, hf, collectOverlaps_miss hd hf p rr l evs⟩)
      | some f => exact .inl ⟨w, l, n, v, f, rfl, hd, hf, collectOverlaps_hit hd hf p rr l evs⟩
    · refine .inr (.inr ⟨?_, ?_⟩)
      · rintro ⟨_, _, n, v, h, hd⟩
        cases h
        exact hnote ⟨n, v, hd⟩
      · rw [collectOverlaps]
        split
        · next n v hd => exact absurd ⟨n, v, hd⟩ hnote
        · rfl

/-- RR counts the hits modulo P, and hit number i goes to voice (RR + i) mod P (R25, R164). -/
def CountsHits (p rr : Nat) (hits : List Overlap) (rr' : BitVec 8) : Prop :=
  rr'.toNat = (rr + hits.length) % p ∧ ∀ i o, hits[i]? = some o → o.voice = (rr + i) % p

theorem countsHits_nil {p : Nat} {rr : BitVec 8} (h : rr.toNat < p) : CountsHits p rr.toNat [] rr :=
  ⟨(Nat.mod_eq_of_lt h).symm, fun i o ho => by simp at ho⟩

/-- One hit more, ahead of those that follow with the next RR. -/
theorem CountsHits.cons {p rr : Nat} {o : Overlap} {hits : List Overlap} {rr' : BitVec 8} (hrr : rr < p)
    (ho : o.voice = rr) (h : CountsHits p ((rr + 1) % p) hits rr') : CountsHits p rr (o :: hits) rr' := by
  obtain ⟨hcount, hvoice⟩ := h
  refine ⟨?_, fun i o' ho' => ?_⟩
  · rw [hcount, Nat.mod_add_mod, List.length_cons, Nat.add_right_comm, Nat.add_assoc]
  · cases i with
    | zero =>
      obtain rfl : o = o' := by simpa using ho'
      rw [ho, Nat.add_zero, Nat.mod_eq_of_lt hrr]
    | succ i =>
      rw [hvoice i o' (by simpa using ho'), Nat.mod_add_mod, Nat.add_assoc, Nat.add_comm 1 i]

theorem collectOverlaps_countsHits {g : GlobalConfig} {p : Nat} (hp : p ≤ 256) {evs : List HostEvent} :
    ∀ {rr : BitVec 8}, rr.toNat < p →
      CountsHits p rr.toNat (collectOverlaps g p rr evs).1 (collectOverlaps g p rr evs).2.1 := by
  induction evs with
  | nil => exact fun hrr => countsHits_nil hrr
  | cons ev evs ih =>
    intro rr hrr
    rcases collectOverlaps_cons_cases g p rr ev evs with
      ⟨w, l, n, v, f, -, -, -, h⟩ | ⟨w, l, n, v, -, -, -, h⟩ | ⟨-, h⟩
    · have hnext : (nextRR p rr).toNat = (rr.toNat + 1) % p := nextRR_toNat rr hp (by omega)
      have hrest := ih (rr := nextRR p rr) (by rw [hnext]; exact Nat.mod_lt _ (by omega))
      rw [hnext] at hrest
      rw [h]
      exact hrest.cons hrr rfl
    · rw [h]
      exact ih hrr
    · rw [h]
      exact countsHits_nil hrr

/-- The overlapping NOTE_ONs are those at the head of the host's events; they are taken, and the hits among them keep
their pitch, level and landing times in order. -/
theorem collectOverlaps_notes {g : GlobalConfig} {p : Nat} {rest : List HostEvent}
    (hrest : ∀ ev evs, rest = ev :: evs → ¬IsNoteOnDuring ev) (notes : List (Word × NoteLanding)) :
    ∀ rr : BitVec 8, (∀ q ∈ notes, ∃ n v, decode q.1 = .ok (.noteOn n v)) →
      (collectOverlaps g p rr (notes.map (fun q => .during q.1 q.2) ++ rest)).2.2 = rest ∧
      (collectOverlaps g p rr (notes.map (fun q => .during q.1 q.2) ++ rest)).1.map
        (fun o => (o.freq, o.vol, o.landing)) = overlappingHits g notes := by
  induction notes with
  | nil =>
    intro rr _
    cases rest with
    | nil => exact ⟨rfl, rfl⟩
    | cons ev evs =>
      have hstop : collectOverlaps g p rr (ev :: evs) = ([], rr, ev :: evs) := by
        rcases collectOverlaps_cons_cases g p rr ev evs with
          ⟨w, l, n, v, f, rfl, hd, -⟩ | ⟨w, l, n, v, rfl, hd, -⟩ | ⟨-, h⟩
        · exact absurd ⟨w, l, n, v, rfl, hd⟩ (hrest _ _ rfl)
        · exact absurd ⟨w, l, n, v, rfl, hd⟩ (hrest _ _ rfl)
        · exact h
      rw [List.map_nil, List.nil_append, hstop]
      exact ⟨rfl, rfl⟩
  | cons q notes ih =>
    intro rr hnotes
    obtain ⟨n, v, hd⟩ := hnotes q List.mem_cons_self
    have htail : ∀ q ∈ notes, ∃ n v, decode q.1 = .ok (.noteOn n v) :=
      fun q' hq' => hnotes q' (List.mem_cons_of_mem q hq')
    rw [List.map_cons, List.cons_append, overlappingHits, List.filterMap_cons, ← overlappingHits]
    cases hf : noteLookup g n with
    | none =>
      simp only [collectOverlaps_miss hd hf, hd, hf, Option.map_none]
      exact ih rr htail
    | some f =>
      obtain ⟨hleft, hhits⟩ := ih (nextRR p rr) htail
      simp only [collectOverlaps_hit hd hf, hd, hf, Option.map_some, List.map_cons, hhits]
      exact ⟨hleft, rfl⟩

/-- What an overlapping hit carries under a legal configuration: a level (R28) and a finite pitch (R62). -/
structure OverlapOk (o : Overlap) : Prop where
  vol : UnitLevel o.vol
  freq : isFinite o.freq = true

/-- A velocity that a command word holds fits 7 bits (R84). -/
theorem vel_le_of_decode {w : Word} {n v : Nat} (h : decode w = .ok (.noteOn n v)) : v ≤ 127 := by
  rcases decode_cases h with h | ⟨f, -, h⟩ | ⟨n', v', -, hv, h⟩
  · cases h
  · cases h
  · cases h
    omega

theorem collectOverlaps_ok {g : GlobalConfig} (hg : SharedOk g) {p : Nat} {evs : List HostEvent} :
    ∀ {rr : BitVec 8}, ∀ o ∈ (collectOverlaps g p rr evs).1, OverlapOk o := by
  induction evs with
  | nil =>
    intro rr o ho
    simp [collectOverlaps] at ho
  | cons ev evs ih =>
    intro rr o ho
    rcases collectOverlaps_cons_cases g p rr ev evs with
      ⟨w, l, n, v, f, -, hd, hf, h⟩ | ⟨w, l, n, v, -, -, -, h⟩ | ⟨-, h⟩
    · rw [h] at ho
      rcases List.mem_cons.mp ho with rfl | ho
      · exact ⟨unitLevel_velocityLevel (vel_le_of_decode hd), (hg.noteFreq n f hf).1⟩
      · exact ih o ho
    · rw [h] at ho
      exact ih o ho
    · rw [h] at ho
      cases ho

/-- Only in FIELD_RACY does a NOTE_ON overlap a PULL (R70, R71). -/
theorem overlapsOf_cases (s : State) :
    overlapsOf s = ([], s.rr, s.host) ∨
    (s.shared.commitMode = .fieldRacy ∧ overlapsOf s = collectOverlaps s.shared s.polyphony s.rr s.host) := by
  cases h : s.shared.commitMode with
  | bufferAtomic => exact .inl (overlapsOf_of_bufferAtomic h)
  | fieldRacy => exact .inr ⟨rfl, overlapsOf_of_fieldRacy h⟩
  | unlisted n => exact .inl (by rw [overlapsOf, h])

theorem overlapsOf_countsHits {s : State} (hp : s.polyphony ≤ 256) (hrr : s.rr.toNat < s.polyphony) :
    CountsHits s.polyphony s.rr.toNat (overlapsOf s).1 (overlapsOf s).2.1 := by
  rcases overlapsOf_cases s with h | ⟨-, h⟩
  · rw [h]
    exact countsHits_nil hrr
  · rw [h]
    exact collectOverlaps_countsHits hp hrr

/-- RR stays below P through a PULL (R25). -/
theorem overlapsOf_rr_lt {s : State} (hp : s.polyphony ≤ 256) (hrr : s.rr.toNat < s.polyphony) :
    (overlapsOf s).2.1.toNat < s.polyphony := by
  rw [(overlapsOf_countsHits hp hrr).1]
  exact Nat.mod_lt _ (by omega)

theorem overlapsOf_ok {s : State} (hg : SharedOk s.shared) : ∀ o ∈ (overlapsOf s).1, OverlapOk o := by
  rcases overlapsOf_cases s with h | ⟨-, h⟩
  · rw [h]
    exact fun o ho => absurd ho List.not_mem_nil
  · rw [h]
    exact collectOverlaps_ok hg

end Sys2Proof.Machine
end

section
/-! PROOFS. Every step keeps the machine in order (R25, R30, R180, R186): the envelope counter through each rendering, and
each instruction by what its meaning can do. -/

namespace Sys2Proof.Machine

/-! ### one operator -/

/-- ENV_N holds every counter value of a legal configuration (R30). -/
theorem toInt_toEnvN {n : Int} (h0 : -1 ≤ n) (h : n < 2 ^ 33) : (toEnvN n).toInt = n :=
  BitVec.toInt_ofInt_eq_self (by norm_num) (by norm_num; omega) (by norm_num; omega)

/-- An operator whose control registers and envelope counter are in their ranges (R30, R186). -/
structure OpOk (o : Operator) : Prop where
  cfg : OpConfigOk o.cfg
  envN : EnvNOk o

/-- No other field of the operator matters. -/
theorem OpOk.of_eq {o o' : Operator} (h : OpOk o) (hcfg : o'.cfg = o.cfg) (hn : o'.envN = o.envN) : OpOk o' := by
  obtain ⟨hc, he⟩ := h
  rw [EnvNOk, ← hcfg, ← hn] at he
  exact ⟨hcfg ▸ hc, he⟩

/-- The counter of a legal operator outside the terminal state. -/
theorem OpOk.envN_range {o : Operator} (h : OpOk o) (hn : o.envN.toInt ≠ -1) :
    0 ≤ o.envN.toInt ∧ o.envN.toInt ≤ o.cfg.attack + o.cfg.decay + 1 :=
  h.envN.resolve_left hn

/-- A counter at most a + d moves on by one, with no wrap of its 34 bits. -/
theorem OpOk.toInt_next {o : Operator} (h : OpOk o) (hn : o.envN.toInt ≠ -1)
    (hle : o.envN.toInt ≤ o.cfg.attack + o.cfg.decay) : (toEnvN (o.envN.toInt + 1)).toInt = o.envN.toInt + 1 := by
  obtain ⟨-, ha⟩ := h.cfg.attack
  obtain ⟨-, hd⟩ := h.cfg.decay
  have hrange := h.envN_range hn
  exact toInt_toEnvN (by omega) (by omega)

/-- The counter after each kind of envelope step (R110). -/
theorem OpOk.envAdvance_envN {o : Operator} (h : OpOk o) :
    (envAdvance o).2.envN.toInt = -1 ∨
      (o.envN.toInt ≠ -1 ∧ o.envN.toInt ≤ o.cfg.attack + o.cfg.decay ∧
        (envAdvance o).2.envN.toInt = o.envN.toInt + 1) := by
  obtain ⟨hd0, -⟩ := h.cfg.decay
  rcases envAdvance_cases o with ⟨hn, hr⟩ | ⟨hn, hle, hr⟩ | ⟨hn, -, hpos, hle, hr⟩ | ⟨-, -, -, hr⟩
  · exact .inl (by rw [hr]; exact hn)
  · exact .inr ⟨hn, by omega, by rw [hr]; exact h.toInt_next hn (by omega)⟩
  · exact .inr ⟨hn, by omega, by rw [hr]; exact h.toInt_next hn (by omega)⟩
  · exact .inl (by rw [hr]; exact toInt_toEnvN (by omega) (by omega))

@[simp] theorem envAdvance_cfg (o : Operator) : (envAdvance o).2.cfg = o.cfg := by
  rw [envAdvance_frame o]

@[simp] theorem envAdvance_phase (o : Operator) : (envAdvance o).2.phase = o.phase := by
  rw [envAdvance_frame o]

theorem OpOk.envAdvance {o : Operator} (h : OpOk o) : OpOk (Machine.envAdvance o).2 := by
  refine ⟨by rw [envAdvance_cfg]; exact h.cfg, ?_⟩
  rw [EnvNOk, envAdvance_cfg]
  rcases h.envAdvance_envN with hn | ⟨hn, hle, hnext⟩
  · exact .inl hn
  · have hrange := h.envN_range hn
    omega

theorem OpOk.sampleStep {g : GlobalConfig} {r : OpRef} {m y : Int} {o o' : Operator} (h : OpOk o)
    (hstep : sampleStep g r m o = .done (y, o')) : OpOk o' := by
  obtain ⟨idx, w, -, -, -, -, rfl⟩ := sampleStep_eq_done.mp hstep
  exact h.envAdvance.of_eq rfl rfl

theorem OpOk.endOfBuffer {o : Operator} (h : OpOk o) : OpOk (Machine.endOfBuffer o) := by
  rcases endOfBuffer_cases o with ⟨-, hr⟩ | ⟨-, hr⟩
  · rw [hr]
    exact ⟨h.cfg, envNOk_of_zero h.cfg rfl⟩
  · rwa [hr]

/-- A rendering keeps the counter in its range, whatever writes land in it. -/
theorem opOk_renderInvariant (g : GlobalConfig) : RenderInvariant g (fun _ o => OpOk o) OpOk where
  due _ _ _ h := h.of_eq rfl rfl
  sample _ _ _ _ _ _ h hstep := h.sampleStep hstep
  finish _ _ h := h.endOfBuffer.of_eq rfl rfl

/-! ### voices -/

/-- A voice whose operators all satisfy Q. -/
def AllOps (Q : Operator → Prop) (x : Voice) : Prop := ∀ k, Q (voiceOp x k)

/-- OP_RENDER keeps Q, for this PULL. -/
def RenderKeeps (c : RenderContext) (Q : Operator → Prop) : Prop :=
  ∀ r m out o o', Q o → opRender c r m o = .done (out, o') → Q o'

theorem opOk_renderKeeps (c : RenderContext) : RenderKeeps c OpOk :=
  fun _ _ _ _ _ h hr => (opOk_renderInvariant c.shared).opRender hr h

theorem RenderKeeps.renderVoices {c : RenderContext} {Q : Operator → Prop} (hQ : RenderKeeps c Q) {f v : Nat}
    {xs ys : List Voice} {bs : List Buffer} (h : renderVoices c f v xs = .done (bs, ys))
    (hxs : ∀ x ∈ xs, AllOps Q x) : ∀ y ∈ ys, AllOps Q y := by
  obtain ⟨hlen, hops⟩ := renderVoices_ops h
  intro y hy k
  obtain ⟨j, hj, rfl⟩ := List.getElem_of_mem hy
  have hx : xs[j]? = some (xs[j]'(by omega)) := List.getElem?_eq_getElem _
  obtain ⟨m, out, hr⟩ := hops j _ _ hx (List.getElem?_eq_getElem hj) k
  exact hQ _ _ _ _ _ (hxs _ (List.getElem_mem _) k) hr

theorem RenderKeeps.route {c : RenderContext} {Q : Operator → Prop} (hQ : RenderKeeps c Q) {route : Routing}
    (hroute : RendersCarriers route) {v : Nat} {out3 b : Buffer} {x y : Voice}
    (h : route c v out3 x = .done (b, y)) (hx : AllOps Q x) : AllOps Q y := by
  obtain ⟨hop3, hcarriers⟩ := hroute _ _ _ _ _ _ h
  intro k
  by_cases hk : k = .op3
  · subst hk
    rw [voiceOp_op3, hop3]
    exact hx .op3
  · obtain ⟨m, out, hr⟩ := hcarriers k hk
    exact hQ _ _ _ _ _ (hx k) hr

/-- The voices after a NOTE_ON's nine writes are the voices before, one of them with the note. -/
theorem mem_landNote {v : Nat} {p vol : F64} {vs : List Voice} {y : Voice} (h : y ∈ landNote v p vol vs) :
    ∃ x ∈ vs, y = x ∨ y = voiceNoteOn p vol x := by
  obtain ⟨j, hj⟩ := List.mem_iff_getElem?.mp h
  rw [landNote_getElem?] at hj
  split_ifs at hj
  · obtain ⟨x, hx, rfl⟩ := Option.map_eq_some_iff.mp hj
    exact ⟨x, List.mem_of_getElem? hx, .inr rfl⟩
  · exact ⟨y, List.mem_of_getElem? hj, .inl rfl⟩

@[simp] theorem voiceOp_voiceNoteOn (p vol : F64) (x : Voice) (k : OpIx) :
    voiceOp (voiceNoteOn p vol x) k = opNoteOn (fmul p (voiceOp x k).cfg.rate) vol (voiceOp x k) :=
  voiceOp_mapOps _ x k

/-! ### the machine -/

/-- The operators of a machine in order. -/
theorem InOrder.opOk {s : State} (h : InOrder s) (h0 : s.fault = 0#4) : ∀ x ∈ s.voices, AllOps OpOk x :=
  fun x hx k => ⟨(h.legal h0).opConfigOk hx k, h.envN h0 x hx k⟩

/-- A faulted machine is in order wherever its code is listed (R182). -/
theorem inOrder_of_fault {s : State} (hcode : s.fault.toNat ≤ 7) (h0 : s.fault ≠ 0#4) : InOrder s :=
  ⟨hcode, fun h => absurd h h0, fun h => absurd h h0, fun h => absurd h h0⟩

/-- A state in order stays so where the fault code, the configuration, RR and the voices are the same. -/
theorem InOrder.of_eq {s t : State} (h : InOrder s) (hfault : t.fault = s.fault) (hshared : t.shared = s.shared)
    (hrr : t.rr = s.rr) (hvoices : t.voices = s.voices) : InOrder t := by
  obtain ⟨hcode, hlegal, hvoice, henvN⟩ := h
  refine ⟨hfault ▸ hcode, fun h0 => ?_, fun h0 => ?_, fun h0 => ?_⟩
  · rw [config_eq_of hshared (by rw [hvoices])]
    exact hlegal (hfault ▸ h0)
  · rw [State.polyphony, hrr, hshared]
    exact hvoice (hfault ▸ h0)
  · rw [hvoices]
    exact henvN (hfault ▸ h0)

theorem raiseFault_fault_ne_zero {code : FaultCode} (hcode : code ≠ .none) (s : State) :
    (raiseFault code s).fault ≠ 0#4 := by
  rw [raiseFault_fault]
  split_ifs with h0
  · exact (faultBits_eq_zero_iff code).not.mpr hcode
  · exact h0

/-- Raising a listed fault leaves the machine faulted, with a listed code (R180, R181). -/
theorem inOrder_raiseFault {code : FaultCode} (hcode : code ≠ .none) {s : State} (h : s.fault.toNat ≤ 7) :
    InOrder (raiseFault code s) := by
  refine inOrder_of_fault ?_ (raiseFault_fault_ne_zero hcode s)
  rw [raiseFault_fault]
  split_ifs
  · exact faultBits_toNat_le code
  · exact h

theorem inOrder_raiseNonfinite (r : OpRef) (ovs : List Overlap) {s : State} (h : s.fault.toNat ≤ 7) :
    InOrder (raiseNonfinite r ovs s) :=
  inOrder_raiseFault (code := .nonfinite) (by decide) h

/-- An instruction that leaves FAULT at 0 keeps the machine in order where it keeps RR and the counters in range: the
configuration it cannot change. -/
theorem InOrder.of_exec {i : Instr} {s t : State} (h : InOrder s) (h0 : s.fault = 0#4) (hexec : exec i s = .next t)
    (hfault : t.fault = 0#4) (hrr : t.rr.toNat < s.polyphony) (hops : ∀ y ∈ t.voices, AllOps OpOk y) : InOrder t := by
  have hconfig := noInstructionChangesTheConfiguration i s t hexec
  refine ⟨by simp [hfault], fun _ => ?_, fun _ => ?_, fun _ y hy k => (hops y hy k).envN⟩
  · rw [hconfig]
    exact h.legal h0
  · rwa [State.polyphony, ← State.config_shared, hconfig]

theorem InOrder.execPrime {s t : State} (h : InOrder s) (hexec : execPrime s = .next t) : InOrder t := by
  rcases execPrime_cases hexec with ⟨-, rfl⟩ | ⟨-, -, rfl⟩ | ⟨-, -, rfl⟩
  · exact h.of_eq rfl rfl rfl rfl
  · exact inOrder_raiseFault (by decide) h.code
  · exact h.of_eq rfl rfl rfl rfl

theorem InOrder.execNoteOn {n v : Nat} {s t : State} (h : InOrder s) (hexec : execNoteOn n v s = .next t) :
    InOrder t := by
  rcases execNoteOn_cases hexec with ⟨-, rfl⟩ | ⟨-, -, rfl⟩ | ⟨f, h0, -, hrr, -, rfl⟩
  · exact h.of_eq rfl rfl rfl rfl
  · exact h.of_eq rfl rfl rfl rfl
  · obtain ⟨hp, hp255⟩ := (h.legal h0).polyphony_le
    refine h.of_exec (i := .noteOn n v) h0 hexec h0 ?_ fun y hy k => ?_
    · rw [returnNothing_rr, nextRR_toNat _ (by omega) (by omega)]
      exact Nat.mod_lt _ (by omega)
    · obtain ⟨x, hx, rfl | rfl⟩ := mem_landNote hy
      · exact h.opOk h0 _ hx k
      · rw [voiceOp_voiceNoteOn]
        exact (h.opOk h0 x hx k).of_eq rfl rfl

theorem InOrder.execPull {f : Nat} {s t : State} (h : InOrder s) (hexec : execPull f s = .next t) : InOrder t := by
  rcases execPull_cases hexec with ⟨-, rfl⟩ | ⟨-, -, rfl⟩ | ⟨-, -, -, rfl⟩ | ⟨h0, -, -, hrender⟩
  · exact h.of_eq rfl rfl rfl rfl
  · exact inOrder_raiseFault (by decide) h.code
  · exact inOrder_raiseFault (by decide) h.code
  · rcases renderPull_cases hrender with ⟨bs, vs, hvoices, rfl⟩ | ⟨r, -, rfl⟩
    · obtain ⟨-, hp255⟩ := (h.legal h0).polyphony_le
      exact h.of_exec (i := .pull f) h0 hexec h0 (overlapsOf_rr_lt (by omega) (h.voice h0))
        ((opOk_renderKeeps _).renderVoices hvoices (h.opOk h0))
    · exact inOrder_raiseNonfinite _ _ (by exact h.code)

/-- A routing that renders the carriers of its voice keeps the machine in order. -/
theorem InOrder.routeWith {i : Instr} {route : Routing} (hroute : RendersCarriers route) {s t : State} (h : InOrder s)
    (hi : exec i s = Machine.routeWith route s) (hexec : Machine.routeWith route s = .next t) : InOrder t := by
  rcases routeWith_cases hexec with ⟨c, -, -, rfl⟩ | ⟨c, x, -, h0, hx, ⟨b, y, hdone, rfl⟩ | ⟨r, -, rfl⟩⟩
  · exact h.of_eq rfl rfl rfl rfl
  · refine h.of_exec h0 (hi.trans hexec) h0 (h.voice h0) fun z hz => ?_
    rcases List.mem_or_eq_of_mem_set hz with hz | rfl
    · exact h.opOk h0 z hz
    · exact (opOk_renderKeeps _).route hroute hdone (h.opOk h0 x (List.mem_of_getElem? hx))
  · exact inOrder_raiseNonfinite _ _ h.code

theorem InOrder.exec {i : Instr} {s t : State} (h : InOrder s) (hexec : exec i s = .next t) : InOrder t := by
  have halg : ∀ {route : Routing}, RendersCarriers route → Machine.exec i s = Machine.routeWith route s → InOrder t :=
    fun hroute hi => h.routeWith hroute hi (hi.symm.trans hexec)
  cases i with
  | prime => exact h.execPrime hexec
  | pull frames => exact h.execPull hexec
  | noteOn note vel => exact h.execNoteOn hexec
  | alg0 => exact halg (route := routeAlg0) (fun _ _ _ _ _ _ => renderCarriers_ops) rfl
  | alg1 => exact halg (route := routeAlg1) (fun _ _ _ _ _ _ => renderCarriers_ops) rfl
  | alg2 => exact halg (route := routeAlg2) (fun _ _ _ _ _ _ => renderCarriers_ops) rfl
  | alg3 => exact halg (route := routeAlg3) (fun _ _ _ _ _ _ => renderCarriers_ops) rfl
  | alg4 => exact halg (route := routeAlg4) (fun _ _ _ _ _ _ => renderCarriers_ops) rfl

theorem InOrder.takeEvent {s : State} (h : InOrder s) (rest : List HostEvent) : InOrder (Machine.takeEvent rest s) :=
  h.of_eq rfl rfl rfl rfl

theorem InOrder.takeIllegal {s : State} (h : InOrder s) : InOrder (Machine.takeIllegal s) := by
  unfold Machine.takeIllegal
  split_ifs
  · exact h.of_eq rfl rfl rfl rfl
  · exact inOrder_raiseFault (by decide) h.code

theorem applyReset_inOrder (c : Config) (s : State) : InOrder (applyReset c s) :=
  (resetWith_inOrder c).of_eq rfl rfl rfl rfl

/-- Settles O20: by what a step can do, each case kept in order by the instruction, the illegal word or the reset. -/
theorem stepKeepsTheMachineInOrder : Obligations.StepKeepsTheMachineInOrder := by
  intro s t h hstep
  rcases step_cases hstep with ⟨c, x, i, -, -, -, hexec⟩ | ⟨-, -, rfl⟩ |
    ⟨w, l, rest, -, -, ⟨i, -, hexec⟩ | ⟨e, -, rfl⟩⟩ | ⟨c, rest, -, -, rfl⟩
  · exact h.exec hexec
  · exact h
  · exact (h.takeEvent rest).exec hexec
  · exact (h.takeEvent rest).takeIllegal
  · exact applyReset_inOrder c _

end Sys2Proof.Machine
end

section
/-! PROOFS. Every step keeps the levels in [0.0, 1.0] and PITCH and PHASE from being NaN (R28, R31, R35, R187). -/

namespace Sys2Proof.Machine

/-! ### the envelope value -/

theorem unitLevel_posZero : UnitLevel F64.posZero := (inUnit_iff F64.posZero).mp (by decide)

theorem unitLevel_one : UnitLevel F64.one := (inUnit_iff F64.one).mp (by decide)

/-- R110's attack ramp n / a. -/
theorem unitLevel_attackLevel {a n : Int} (h0 : 0 ≤ n) (hna : n ≤ a) (ha : a < 2 ^ 53) :
    UnitLevel (attackLevel a n) := by
  unfold attackLevel
  split_ifs with ha0
  · exact unitLevel_one
  · exact unitLevel_fdiv_f64 h0 hna (by omega) ha

/-- A level taken from 1.0. -/
theorem UnitLevel.fsub_one {q : F64} (h : UnitLevel q) : UnitLevel (fsub F64.one q) := by
  obtain ⟨hfin, h0, h1⟩ := h
  obtain ⟨-, hround, -⟩ := additionIsCorrectlyRounded F64.one q (by decide) hfin
  rw [toRat_one] at hround
  exact hround.unitLevel (by linarith) (by linarith)

/-- R110's decay ramp 1 - (n - a) / d. -/
theorem unitLevel_decayLevel {a d n : Int} (h0 : a < n) (hd0 : 0 < d) (hnd : n - a ≤ d) (hd : d < 2 ^ 53) :
    UnitLevel (decayLevel a d n) :=
  (unitLevel_fdiv_f64 (by omega) hnd hd0 hd).fsub_one

/-- ENV_CUR in its range, with 0.0 in the terminal state (R31, R35). -/
structure EnvCurOk (o : Operator) : Prop where
  level : UnitLevel o.envCur
  terminal : o.envN.toInt = -1 → toRat o.envCur = 0

/-- Each step of R110 leaves a level, and the terminal one 0.0. -/
theorem EnvCurOk.envAdvance {o : Operator} (ho : OpOk o) (h : EnvCurOk o) : EnvCurOk (Machine.envAdvance o).2 := by
  obtain ⟨-, ha⟩ := ho.cfg.attack
  obtain ⟨hd0, hd⟩ := ho.cfg.decay
  rcases envAdvance_cases o with ⟨-, hr⟩ | ⟨hn, hle, hr⟩ | ⟨hn, hlt, hpos, hle, hr⟩ | ⟨-, -, -, hr⟩
  · rwa [hr]
  · have hrange := ho.envN_range hn
    have hnext := ho.toInt_next hn (by omega)
    rw [hr]
    exact ⟨unitLevel_attackLevel hrange.1 hle (by omega), fun hend => absurd (hnext.symm.trans hend) (by omega)⟩
  · have hrange := ho.envN_range hn
    have hnext := ho.toInt_next hn (by omega)
    rw [hr]
    exact ⟨unitLevel_decayLevel hlt hpos hle (by omega), fun hend => absurd (hnext.symm.trans hend) (by omega)⟩
  · rw [hr]
    exact ⟨unitLevel_posZero, fun _ => toRat_posZero⟩

/-! ### one operator -/

/-- The writes still to land carry levels and pitches that are no NaN. -/
structure WritesOk (p : PendingWrites) : Prop where
  pitches : ∀ w ∈ p.pitches, isNaN w.2 = false
  noteVols : ∀ w ∈ p.noteVols, UnitLevel w.2

/-- Landing some writes of a queue keeps what holds of the field and of every write. -/
theorem landField_forall {α : Type} {P : α → Prop} (t : Nat) {ws : List (Nat × α)} :
    ∀ {x : α}, P x → (∀ w ∈ ws, P w.2) → P (landField t x ws).1 ∧ ∀ w ∈ (landField t x ws).2, P w.2 := by
  induction ws with
  | nil => exact fun hx hws => ⟨hx, hws⟩
  | cons w ws ih =>
    intro x hx hws
    obtain ⟨hw, hrest⟩ := List.forall_mem_cons.mp hws
    rw [landField]
    split_ifs
    · exact ih hw hrest
    · exact ⟨hx, hws⟩

theorem lastWrite_forall {α : Type} {P : α → Prop} {ws : List (Nat × α)} :
    ∀ {x : α}, P x → (∀ w ∈ ws, P w.2) → P (lastWrite x ws) := by
  induction ws with
  | nil => exact fun hx _ => hx
  | cons w ws ih =>
    intro x _ hws
    obtain ⟨hw, hrest⟩ := List.forall_mem_cons.mp hws
    exact ih (x := w.2) hw hrest

theorem LevelsOk.landDue {p : PendingWrites} {o : Operator} (h : LevelsOk o) (hp : WritesOk p) (t : Nat) :
    LevelsOk (Machine.landDue t p o).1 ∧ WritesOk (Machine.landDue t p o).2 := by
  obtain ⟨hpitch, hpitches⟩ := landField_forall (P := fun x => isNaN x = false) t h.pitch hp.pitches
  obtain ⟨hvol, hvols⟩ := landField_forall (P := UnitLevel) t h.noteVol hp.noteVols
  exact ⟨⟨hvol, h.envCur, h.terminal, hpitch, h.phase⟩, ⟨hpitches, hvols⟩⟩

theorem LevelsOk.landAll {p : PendingWrites} {o : Operator} (h : LevelsOk o) (hp : WritesOk p) :
    LevelsOk (Machine.landAll p o) :=
  ⟨lastWrite_forall h.noteVol hp.noteVols, h.envCur, h.terminal,
    lastWrite_forall (P := fun x => isNaN x = false) h.pitch hp.pitches, h.phase⟩

/-- A retrigger leaves ENV_N at 0, which is not the terminal state (R127). -/
theorem LevelsOk.endOfBuffer {o : Operator} (h : LevelsOk o) : LevelsOk (Machine.endOfBuffer o) := by
  rcases endOfBuffer_cases o with ⟨-, hr⟩ | ⟨-, hr⟩
  · rw [hr]
    exact ⟨h.noteVol, h.envCur, fun hend => absurd hend (show (toEnvN 0).toInt ≠ -1 by decide), h.pitch, h.phase⟩
  · rwa [hr]

/-- R125's increment under a legal configuration: L and SR are no zeros, and PITCH is no NaN. -/
theorem isNaN_phaseInc {g : GlobalConfig} (hg : SharedOk g) {o : Operator} (h : isNaN o.pitch = false) :
    isNaN (phaseInc g o) = false := by
  obtain ⟨hlen0, hlen⟩ := hg.wtLen
  obtain ⟨hsr0, hsr⟩ := hg.sampleRate
  obtain ⟨hlf, hlv⟩ := integerConversionIsExact g.wtLen (abs_lt.mpr (by omega))
  obtain ⟨hsf, hsv⟩ := integerConversionIsExact g.sampleRate (abs_lt.mpr (by omega))
  refine isNaN_fdiv (isNaN_fmul_of_ne_zero hlf ?_ h) hsf ?_
  · rw [hlv, Int.cast_ne_zero]
    omega
  · rw [hsv, Int.cast_ne_zero]
    omega

/-- A done sample was read at a finite position, so that PHASE was finite before its increment (R122, R187). -/
theorem LevelsOk.sampleStep {g : GlobalConfig} (hg : SharedOk g) {r : OpRef} {m y : Int} {o o' : Operator}
    (ho : OpOk o) (h : LevelsOk o) (hstep : sampleStep g r m o = .done (y, o')) : LevelsOk o' := by
  obtain ⟨hcur, hend⟩ := EnvCurOk.envAdvance ho ⟨h.envCur, h.terminal⟩
  obtain ⟨-, hpitch, hvol, -⟩ := sampleStep_frame hstep
  obtain ⟨idx, w, hidx, -, -, -, rfl⟩ := sampleStep_eq_done.mp hstep
  have hpitch' : isNaN (Machine.envAdvance o).2.pitch = false := hpitch ▸ h.pitch
  refine ⟨hvol ▸ h.noteVol, hcur, hend, hpitch', ?_⟩
  rw [advancePhase_phase, envAdvance_phase]
  exact isNaN_fadd (isFinite_phase_of_roundIdx hidx) (isNaN_phaseInc hg hpitch')

/-- A rendering keeps the levels, with the writes that land in it. -/
theorem levelsOk_renderInvariant {g : GlobalConfig} (hg : SharedOk g) :
    RenderInvariant g (fun p o => OpOk o ∧ LevelsOk o ∧ WritesOk p) (fun o => OpOk o ∧ LevelsOk o) where
  due t p o h := by
    obtain ⟨ho, hl, hp⟩ := h
    obtain ⟨hl', hp'⟩ := hl.landDue hp t
    exact ⟨ho.of_eq rfl rfl, hl', hp'⟩
  sample r m y p o o' h hstep := by
    obtain ⟨ho, hl, hp⟩ := h
    exact ⟨ho.sampleStep hstep, hl.sampleStep hg ho hstep, hp⟩
  finish p o h := by
    obtain ⟨ho, hl, hp⟩ := h
    exact ⟨ho.endOfBuffer.of_eq rfl rfl, hl.endOfBuffer.landAll hp⟩

/-- The writes of overlapping hits to one operator (R130, R149). -/
theorem writesOk_pendingFor {ovs : List Overlap} (hovs : ∀ o ∈ ovs, OverlapOk o) (r : OpRef) {rate : F64}
    (hrate : isFinite rate = true) : WritesOk (pendingFor ovs r rate) := by
  refine ⟨fun w hw => ?_, fun w hw => ?_⟩
  · obtain ⟨o, ho, rfl⟩ := List.mem_map.mp hw
    exact isNaN_fmul (hovs o (List.mem_of_mem_filter ho)).freq hrate
  · obtain ⟨o, ho, rfl⟩ := List.mem_map.mp hw
    exact (hovs o (List.mem_of_mem_filter ho)).vol

theorem levelsOk_renderKeeps {c : RenderContext} (hg : SharedOk c.shared) (hovs : ∀ o ∈ c.overlaps, OverlapOk o) :
    RenderKeeps c (fun o => OpOk o ∧ LevelsOk o) := by
  rintro r m out o o' ⟨ho, hl⟩ hr
  exact (levelsOk_renderInvariant hg).opRender hr ⟨ho, hl, writesOk_pendingFor hovs r ho.cfg.rate⟩

/-- R130: the three writes of a hit. -/
theorem LevelsOk.opNoteOn {o : Operator} (h : LevelsOk o) {p vol : F64} (hp : isNaN p = false) (hvol : UnitLevel vol) :
    LevelsOk (Machine.opNoteOn p vol o) :=
  ⟨hvol, h.envCur, h.terminal, hp, h.phase⟩

/-! ### the machine -/

theorem inLevel_of_fault {s : State} (h0 : s.fault ≠ 0#4) : InLevel s := fun h => absurd h h0

theorem InLevel.of_eq {s t : State} (h : InLevel s) (hfault : t.fault = s.fault) (hvoices : t.voices = s.voices) :
    InLevel t := by
  rwa [InLevel, hfault, hvoices]

theorem inLevel_raiseFault {code : FaultCode} (hcode : code ≠ .none) (s : State) : InLevel (raiseFault code s) :=
  inLevel_of_fault (raiseFault_fault_ne_zero hcode s)

theorem InLevel.execPrime {s t : State} (h : InLevel s) (hexec : execPrime s = .next t) : InLevel t := by
  rcases execPrime_cases hexec with ⟨-, rfl⟩ | ⟨-, -, rfl⟩ | ⟨-, -, rfl⟩
  · exact h.of_eq rfl rfl
  · exact inLevel_raiseFault (by decide) s
  · exact h.of_eq rfl rfl

theorem InLevel.execNoteOn {n v : Nat} {s t : State} (horder : InOrder s) (h : InLevel s) (hv : v ≤ 127)
    (hexec : execNoteOn n v s = .next t) : InLevel t := by
  rcases execNoteOn_cases hexec with ⟨-, rfl⟩ | ⟨-, -, rfl⟩ | ⟨f, h0, hf, -, -, rfl⟩
  · exact h.of_eq rfl rfl
  · exact h.of_eq rfl rfl
  · intro _ y hy k
    obtain ⟨hfreq, -⟩ := (horder.legal h0).sharedOk.noteFreq n f hf
    obtain ⟨x, hx, rfl | rfl⟩ := mem_landNote hy
    · exact h h0 _ hx k
    · rw [voiceOp_voiceNoteOn]
      exact (h h0 x hx k).opNoteOn (isNaN_fmul hfreq (horder.opOk h0 x hx k).cfg.rate) (unitLevel_velocityLevel hv)

theorem InLevel.execPull {f : Nat} {s t : State} (horder : InOrder s) (h : InLevel s)
    (hexec : execPull f s = .next t) : InLevel t := by
  rcases execPull_cases hexec with ⟨-, rfl⟩ | ⟨-, -, rfl⟩ | ⟨-, -, -, rfl⟩ | ⟨h0, -, -, hrender⟩
  · exact h.of_eq rfl rfl
  · exact inLevel_raiseFault (by decide) s
  · exact inLevel_raiseFault (by decide) s
  · rcases renderPull_cases hrender with ⟨bs, vs, hvoices, rfl⟩ | ⟨r, -, rfl⟩
    · have hshared := (horder.legal h0).sharedOk
      have hkeep := levelsOk_renderKeeps (c := { shared := s.shared, overlaps := (overlapsOf s).1 }) hshared
        (overlapsOf_ok hshared)
      exact fun _ y hy k => (hkeep.renderVoices hvoices
        (fun x hx k => ⟨horder.opOk h0 x hx k, h h0 x hx k⟩) y hy k).2
    · exact inLevel_raiseFault (code := .nonfinite) (by decide) _

/-- A command of the host keeps the levels (R92: its operands fit their fields). -/
theorem InLevel.command {w : Word} {i : Instr} {s t : State} (horder : InOrder s) (h : InLevel s)
    (hd : decode w = .ok i) (hexec : exec i s = .next t) : InLevel t := by
  rcases decode_cases hd with rfl | ⟨f, -, rfl⟩ | ⟨n, v, -, hv, rfl⟩
  · exact h.execPrime hexec
  · exact h.execPull horder hexec
  · exact h.execNoteOn horder (by omega) hexec

/-- No command leaves a voice in the combiner where it found none. -/
theorem command_combiner {w : Word} {i : Instr} {s t : State} (hd : decode w = .ok i) (hexec : exec i s = .next t)
    (h : s.combiner = none) : t.combiner = none := by
  rcases decode_cases hd with rfl | ⟨f, -, rfl⟩ | ⟨n, v, -, -, rfl⟩
  · rcases execPrime_cases hexec with ⟨-, rfl⟩ | ⟨-, -, rfl⟩ | ⟨-, -, rfl⟩
    · exact h
    · rfl
    · exact h
  · rcases execPull_cases hexec with ⟨-, rfl⟩ | ⟨-, -, rfl⟩ | ⟨-, -, -, rfl⟩ | ⟨-, -, -, hrender⟩
    · exact h
    · rfl
    · rfl
    · rcases renderPull_cases hrender with ⟨bs, vs, -, rfl⟩ | ⟨r, -, rfl⟩
      · exact h
      · rfl
  · rcases execNoteOn_cases hexec with ⟨-, rfl⟩ | ⟨-, -, rfl⟩ | ⟨f, -, -, -, -, rfl⟩ <;> exact h

theorem voiceWaiting_of_combiner {s : State} (h : s.combiner = none) : voiceWaiting s = none := by
  rw [voiceWaiting, h]

theorem takeIllegal_inLevel {s : State} (h : InLevel s) : InLevel (takeIllegal s) := by
  unfold takeIllegal
  split_ifs
  · exact h.of_eq rfl rfl
  · exact inLevel_raiseFault (by decide) s

theorem takeIllegal_combiner {s : State} (h : s.combiner = none) : (takeIllegal s).combiner = none := by
  unfold takeIllegal
  split_ifs
  · exact h
  · rfl

/-- Settles O21: with no voice waiting a step waits, takes a command, takes an illegal word, or resets. -/
theorem stepKeepsTheLevelsInRange : Obligations.StepKeepsTheLevelsInRange := by
  intro s t horder h hwait hstep
  rcases step_cases hstep with ⟨c, x, i, hsome, -⟩ | ⟨-, -, rfl⟩ |
    ⟨w, l, rest, -, -, ⟨i, hd, hexec⟩ | ⟨e, -, rfl⟩⟩ | ⟨c, rest, -, -, rfl⟩
  · rw [hwait] at hsome
    cases hsome
  · exact ⟨h, hwait⟩
  · have htake : InLevel (takeEvent rest s) := h.of_eq rfl rfl
    exact ⟨htake.command (horder.takeEvent rest) hd hexec,
      voiceWaiting_of_combiner (command_combiner hd hexec rfl)⟩
  · have htake : InLevel (takeEvent rest s) := h.of_eq rfl rfl
    exact ⟨takeIllegal_inLevel htake, voiceWaiting_of_combiner (takeIllegal_combiner rfl)⟩
  · exact ⟨(resetWith_inLevel c).of_eq rfl rfl, voiceWaiting_of_combiner rfl⟩

end Sys2Proof.Machine
end

section
/-! PROOFS. The writes of overlapping NOTE_ONs (R71, R72): whatever the landing times, a field ends at its last write, and a
RESET that landed is carried out by END_OF_BUFFER or still there. -/

namespace Sys2Proof.Machine

/-! ### one queue -/

/-- Landing some writes of a queue does not change its last value. -/
theorem lastWrite_landField {α : Type} (t : Nat) (ws : List (Nat × α)) :
    ∀ x : α, lastWrite (landField t x ws).1 (landField t x ws).2 = lastWrite x ws := by
  induction ws with
  | nil => exact fun _ => rfl
  | cons w ws ih =>
    intro x
    rw [landField]
    split_ifs
    · exact ih w.2
    · rfl

/-- Of a queue of writes of one kind, one has landed or all are pending. -/
theorem landField_landed_or_pending {α : Type} {P : α → Prop} (t : Nat) {ws : List (Nat × α)}
    (hws : ∀ w ∈ ws, P w.2) : ∀ {x : α}, P x ∨ ws ≠ [] → P (landField t x ws).1 ∨ (landField t x ws).2 ≠ [] := by
  induction ws with
  | nil => exact fun h => h
  | cons w ws ih =>
    intro x h
    obtain ⟨hw, hrest⟩ := List.forall_mem_cons.mp hws
    rw [landField]
    split_ifs
    · exact ih hrest (.inl hw)
    · exact .inr (List.cons_ne_nil w ws)

/-! ### one operator -/

@[simp] theorem endOfBuffer_pitch (o : Operator) : (endOfBuffer o).pitch = o.pitch := by
  rcases endOfBuffer_cases o with ⟨-, h⟩ | ⟨-, h⟩ <;> rw [h]

@[simp] theorem endOfBuffer_noteVol (o : Operator) : (endOfBuffer o).noteVol = o.noteVol := by
  rcases endOfBuffer_cases o with ⟨-, h⟩ | ⟨-, h⟩ <;> rw [h]

@[simp] theorem endOfBuffer_reset (o : Operator) : (endOfBuffer o).reset = false := by
  rcases endOfBuffer_cases o with ⟨-, h⟩ | ⟨hr, h⟩
  · rw [h]
  · rw [h, hr]

/-- PITCH and NOTE_VOL with every pending write applied do not change in a rendering. -/
theorem lastWrite_renderInvariant (g : GlobalConfig) (pitch noteVol : F64) :
    RenderInvariant g (fun p o => lastWrite o.pitch p.pitches = pitch ∧ lastWrite o.noteVol p.noteVols = noteVol)
      (fun o => o.pitch = pitch ∧ o.noteVol = noteVol) where
  due t p o h := by
    obtain ⟨hp, hv⟩ := h
    exact ⟨(lastWrite_landField t p.pitches o.pitch).trans hp, (lastWrite_landField t p.noteVols o.noteVol).trans hv⟩
  sample r m y p o o' h hstep := by
    obtain ⟨-, hpitch, hvol, -⟩ := sampleStep_frame hstep
    rwa [hpitch, hvol]
  finish p o h := by
    rwa [landAll_pitch, landAll_noteVol, endOfBuffer_pitch, endOfBuffer_noteVol]

/-- A RESET issued during the PULL is pending or set until END_OF_BUFFER carries it out (R127). -/
theorem resetIssued_renderInvariant (g : GlobalConfig) :
    RenderInvariant g (fun p o => o.reset = true ∨ p.resets ≠ [])
      (fun o => o.reset = true ∨ (o.reset = false ∧ o.envN = 0#34)) where
  due t p o h := by
    have hall : ∀ w ∈ p.resets.map fun at' => (at', true), w.2 = true := by
      intro w hw
      obtain ⟨at', -, rfl⟩ := List.mem_map.mp hw
      rfl
    have hissued : o.reset = true ∨ p.resets.map (fun at' => (at', true)) ≠ [] :=
      h.imp_right List.map_eq_nil_iff.not.mpr
    rcases landField_landed_or_pending (P := (· = true)) t hall hissued with hlanded | hpending
    · exact .inl hlanded
    · exact .inr (List.map_eq_nil_iff.not.mpr hpending)
  sample r m y p o o' h hstep := by
    obtain ⟨-, -, -, hreset⟩ := sampleStep_frame hstep
    rwa [hreset]
  finish p o h := by
    rw [landAll_reset, landAll_envN, endOfBuffer_reset, Bool.false_or]
    by_cases hp : p.resets = []
    · have hreset : o.reset = true := h.resolve_right (not_not.mpr hp)
      obtain ⟨-, hr⟩ | ⟨hf, -⟩ := endOfBuffer_cases o
      · exact .inr ⟨by rw [hp]; rfl, by rw [hr]; rfl⟩
      · rw [hreset] at hf
        cases hf
    · exact .inl (by simpa using hp)

/-- With no RESET issued during the PULL, END_OF_BUFFER leaves RESET at 0 (R127). -/
theorem noReset_renderInvariant (g : GlobalConfig) :
    RenderInvariant g (fun p _ => p.resets = []) (fun o => o.reset = false) where
  due t p o h := by simp [landDue, h, landField]
  sample _ _ _ _ _ _ h _ := h
  finish p o h := by rw [landAll_reset, endOfBuffer_reset, h]; rfl

/-- No RESET is pending for an operator exactly where no hit went to its voice. -/
theorem pendingFor_resets_eq_nil_iff (ovs : List Overlap) (r : OpRef) (rate : F64) :
    (pendingFor ovs r rate).resets = [] ↔ ∀ o ∈ ovs, o.voice ≠ r.voice := by
  simp [pendingFor]

/-! ### the voices -/

/-- What the overlapping NOTE_ONs leave in PITCH and NOTE_VOL of an operator, in command order (R130, R149). -/
theorem landOverlaps_lastWrite {j : Nat} {ovs : List Overlap} :
    ∀ {vs : List Voice} {x x' : Voice}, vs[j]? = some x → (landOverlaps ovs vs)[j]? = some x' → ∀ k,
      (voiceOp x' k).pitch =
        lastWrite (voiceOp x k).pitch (pendingFor ovs ⟨j, k⟩ (voiceOp x k).cfg.rate).pitches ∧
      (voiceOp x' k).noteVol =
        lastWrite (voiceOp x k).noteVol (pendingFor ovs ⟨j, k⟩ (voiceOp x k).cfg.rate).noteVols := by
  induction ovs with
  | nil =>
    intro vs x x' hx hx' k
    obtain rfl : x = x' := Option.some.inj (hx.symm.trans hx')
    exact ⟨rfl, rfl⟩
  | cons o ovs ih =>
    intro vs x x' hx hx' k
    have hfirst := landNote_getElem? o.voice j o.freq o.vol vs
    by_cases hj : o.voice = j
    · rw [if_pos hj, hx, Option.map_some] at hfirst
      have hrest := ih hfirst hx' k
      rw [voiceOp_voiceNoteOn] at hrest
      simpa [pendingFor, hj, lastWrite] using hrest
    · rw [if_neg hj, hx] at hfirst
      simpa [pendingFor, hj] using ih hfirst hx' k

/-- A PULL that ends with FAULT 0 has rendered every voice and mixed (R101). -/
theorem execPull_of_fault_eq_zero {f : Nat} {s t : State} (h0 : s.fault = 0#4) (h : execPull f s = .next t)
    (ht : t.fault = 0#4) :
    ∃ bs vs, renderVoices { shared := s.shared, overlaps := (overlapsOf s).1 } f 0 s.voices = .done (bs, vs) ∧
      t = returnBuffer (mix f bs)
        { s with rr := (overlapsOf s).2.1, host := (overlapsOf s).2.2, voices := vs } := by
  rcases execPull_cases h with ⟨hne, -⟩ | ⟨-, -, rfl⟩ | ⟨-, -, -, rfl⟩ | ⟨-, -, -, hrender⟩
  · exact absurd h0 hne
  · exact absurd ht (raiseFault_fault_ne_zero (by decide) s)
  · exact absurd ht (raiseFault_fault_ne_zero (by decide) s)
  · rcases renderPull_cases hrender with hdone | ⟨r, -, rfl⟩
    · exact hdone
    · exact absurd ht (raiseFault_fault_ne_zero (code := .nonfinite) (by decide) _)

/-- An operator of voice j after a PULL, whatever the landing times. -/
theorem opRender_overlaps {c : RenderContext} {j : Nat} {k : OpIx} {m out : Buffer} {o o' : Operator}
    (h : opRender c ⟨j, k⟩ m o = .done (out, o')) :
    (o'.pitch = lastWrite o.pitch (pendingFor c.overlaps ⟨j, k⟩ o.cfg.rate).pitches ∧
      o'.noteVol = lastWrite o.noteVol (pendingFor c.overlaps ⟨j, k⟩ o.cfg.rate).noteVols) ∧
    ((∃ ov ∈ c.overlaps, ov.voice = j) → o'.reset = true ∨ (o'.reset = false ∧ o'.envN = 0#34)) ∧
    ((∀ ov ∈ c.overlaps, ov.voice ≠ j) → o'.reset = false) := by
  have hnone := pendingFor_resets_eq_nil_iff c.overlaps ⟨j, k⟩ o.cfg.rate
  refine ⟨(lastWrite_renderInvariant _ _ _).opRender h ⟨rfl, rfl⟩, fun hhit => ?_, fun hmiss => ?_⟩
  · obtain ⟨ov, hov, hj⟩ := hhit
    exact (resetIssued_renderInvariant _).opRender h (.inr fun hnil => hnone.mp hnil ov hov hj)
  · exact (noReset_renderInvariant _).opRender h (hnone.mpr hmiss)

/-- Settles O59: the events by induction over them, the fields by what OP_RENDER does with its queues. -/
theorem overlappingWritesLandByTheEnd : Obligations.OverlappingWritesLandByTheEnd := by
  intro s t f hmode h0 hexec ht
  obtain ⟨bs, vs, hvoices, rfl⟩ := execPull_of_fault_eq_zero h0 hexec ht
  refine ⟨rfl, rfl, fun hrr hp => overlapsOf_countsHits (by omega) hrr, fun notes rest hhost hnotes hrest => ?_,
    fun j x hx => ?_⟩
  · have hstop : ∀ ev evs, rest = ev :: evs → ¬IsNoteOnDuring ev := by
      rintro ev evs hev ⟨w, l, n, v, rfl, hd⟩
      exact hrest w l evs hev n v hd
    rw [returnBuffer_host, overlapsOf_of_fieldRacy hmode, hhost]
    exact collectOverlaps_notes hstop notes s.rr hnotes
  · obtain ⟨hlen, hops⟩ := renderVoices_ops hvoices
    have hj : j < s.voices.length := by
      rw [← landOverlaps_length (overlapsOf s).1]
      exact (List.getElem?_eq_some_iff.mp hx).1
    have hold : s.voices[j]? = some s.voices[j] := List.getElem?_eq_getElem hj
    have hnew : vs[j]? = some (vs[j]'(by omega)) := List.getElem?_eq_getElem _
    refine ⟨_, hnew, fun k => ?_⟩
    obtain ⟨m, out, hr⟩ := hops j _ _ hold hnew k
    rw [Nat.zero_add] at hr
    obtain ⟨⟨hpitch, hvol⟩, hhit, hmiss⟩ := opRender_overlaps hr
    obtain ⟨hpitch', hvol'⟩ := landOverlaps_lastWrite hold hx k
    exact ⟨hpitch.trans hpitch'.symm, hvol.trans hvol'.symm, hhit, hmiss⟩

end Sys2Proof.Machine
end

section
/-! PROOFS. The bytes of a link (R64, R87), and the step that takes a command word (R70, R92). -/

namespace Sys2Proof

/-! ### the bytes of a word -/

/-- The byte at a bit position, as a digit of the number (R64). -/
theorem toNat_byteAt {n : Nat} (x : BitVec n) (lo : Nat) :
    (x.extractLsb' lo 8).toNat = x.toNat / 2 ^ lo % 256 := by
  rw [BitVec.extractLsb'_toNat, Nat.shiftRight_eq_div_pow]

theorem wordBytes_toNat (w : Word) :
    (wordBytes w).map BitVec.toNat =
      [w.toNat % 256, w.toNat / 256 % 256, w.toNat / 65536 % 256, w.toNat / 16777216] := by
  have htop : w.toNat / 16777216 % 256 = w.toNat / 16777216 := Nat.mod_eq_of_lt (by omega)
  simp only [wordBytes, field, List.map_cons, List.map_nil, toNat_byteAt, Nat.reducePow, Nat.div_one, htop]

theorem sampleBytes_toNat (x : Sample) : (sampleBytes x).map BitVec.toNat = [x.toNat % 256, x.toNat / 256] := by
  have htop : x.toNat / 256 % 256 = x.toNat / 256 := Nat.mod_eq_of_lt (by omega)
  simp only [sampleBytes, List.map_cons, List.map_nil, toNat_byteAt, Nat.reducePow, Nat.div_one, htop]

/-- The four bytes of a word, put together again, are the word: neighbouring fields join to one field. -/
theorem wordOfBytes_fields (w : Word) : wordOfBytes (field w 0 8) (field w 8 8) (field w 16 8) (field w 24 8) = w := by
  simp only [wordOfBytes, field]
  rw [BitVec.extractLsb'_append_extractLsb'_eq_extractLsb' (by rfl),
    BitVec.extractLsb'_append_extractLsb'_eq_extractLsb' (by rfl),
    BitVec.extractLsb'_append_extractLsb'_eq_extractLsb' (by rfl)]
  exact BitVec.extractLsb'_eq_self

/-- One command takes its four bytes from the link and leaves the rest (R87). -/
theorem decodeBytes_wordBytes (w : Word) (rest : List Byte) :
    decodeBytes (wordBytes w ++ rest) = some (decode w, rest) := by
  simp only [wordBytes, List.cons_append, List.nil_append, decodeBytes, wordOfBytes_fields]

/-- Settles O5: each byte is a digit, and the four bytes of a word join to the word. -/
theorem linkBytesAreLittleEndian : Obligations.LinkBytesAreLittleEndian :=
  fun w x rest => ⟨wordBytes_toNat w, sampleBytes_toNat x, decodeBytes_wordBytes w rest⟩

end Sys2Proof

namespace Sys2Proof.Machine

/-! ### taking a command word -/

/-- Where no voice waits, what comes next is the host's (R70). -/
theorem fetch_of_voiceWaiting_eq_none {s : State} (h : voiceWaiting s = none) : fetch s = fetchEvent s := by
  rw [fetch, h]

theorem fetchWord_of_decode {w : Word} {i : Instr} (h : decode w = .ok i) (rest : List HostEvent) (s : State) :
    fetchWord w rest s = .instr i (takeEvent rest s) := by
  rw [fetchWord, h]

/-- The host's first event is a command word, issued in order or marked as issued during a PULL (log 5). -/
theorem fetchEvent_of_word {s : State} {w : Word} {l : NoteLanding} {rest : List HostEvent}
    (h : s.host = .command w :: rest ∨ s.host = .during w l :: rest) : fetchEvent s = fetchWord w rest s := by
  rcases h with h | h <;> rw [fetchEvent, h]

theorem step_of_fetch_eq_instr {s s' : State} {i : Instr} (h : fetch s = .instr i s') : step s = exec i s' := by
  rw [step, h]

/-- Settles O7: the word is fetched, decoded and run. -/
theorem stepRunsTheDecodedCommand : Obligations.StepRunsTheDecodedCommand := by
  intro s w l rest i hwait hd hhost
  have hfetch : fetch s = .instr i (takeEvent rest s) :=
    calc fetch s = fetchEvent s := fetch_of_voiceWaiting_eq_none hwait
      _ = fetchWord w rest s := fetchEvent_of_word hhost
      _ = .instr i (takeEvent rest s) := fetchWord_of_decode hd rest s
  exact step_of_fetch_eq_instr hfetch

end Sys2Proof.Machine
end

section
/-! PROOFS. The course of a PULL that passes its checks, and in BUFFER_ATOMIC its independence of the host's later events
(R70, R72, R101, R189). -/

namespace Sys2Proof.Machine

/-! ### the checks of PULL (R189) -/

theorem execPull_of_faulted {s : State} (h : s.fault ≠ 0#4) (f : Nat) : execPull f s = .next (returnNothing s) := by
  rw [execPull, if_pos h]

theorem execPull_of_unprimed {s : State} (h0 : s.fault = 0#4) (hp : s.primed = false) (f : Nat) :
    execPull f s = .next (raiseFault .pullBeforePrime s) := by
  simp [execPull, h0, hp]

theorem execPull_of_badFrames {s : State} {f : Nat} (h0 : s.fault = 0#4) (hp : s.primed = true)
    (hf : framesLegal s.shared f = false) : execPull f s = .next (raiseFault .badFrames s) := by
  simp [execPull, h0, hp, hf]

theorem execPull_of_framesLegal {s : State} {f : Nat} (h0 : s.fault = 0#4) (hp : s.primed = true)
    (hf : framesLegal s.shared f = true) : execPull f s = renderPull f s := by
  simp [execPull, h0, hp, hf]

theorem framesLegal_iff (g : GlobalConfig) (f : Nat) : framesLegal g f = true ↔ 1 ≤ f ∧ f ≤ g.maxFrames := by
  simp [framesLegal]

/-! ### the rendering of PULL (R101) -/

/-- Where PULL renders: its switch is listed and every voice it speaks of is there (log 9). -/
structure PullRenders (s : State) : Prop where
  listed : s.shared.commitMode.isListed = true
  voices : s.voices ≠ []
  polyphony : s.polyphony = s.voices.length
  overlaps : ∀ o ∈ (overlapsOf s).1, o.voice < s.polyphony

/-- What is fixed while a PULL in state s renders. -/
def pullContext (s : State) : RenderContext := { shared := s.shared, overlaps := (overlapsOf s).1 }

/-- The end of a PULL, by the outcome of its rendering: the mix, NONFINITE (R181), or a stop. -/
def endPull (f : Nat) (s : State) : Rendered (List Buffer × List Voice) → Host.Outcome State Fault Refusal
  | .done a => .next (returnBuffer (mix f a.1)
      { s with rr := (overlapsOf s).2.1, host := (overlapsOf s).2.2, voices := a.2 })
  | .nonfinite r => .next (raiseNonfinite r (overlapsOf s).1
      { s with rr := (overlapsOf s).2.1, host := (overlapsOf s).2.2 })
  | .stuck e => .fault e

theorem renderPull_eq_endPull {s : State} (h : PullRenders s) (f : Nat) :
    renderPull f s = endPull f s (renderVoices (pullContext s) f 0 s.voices) := by
  have hvoices :
      ¬(s.voices = [] ∨ s.polyphony ≠ s.voices.length ∨ ∃ o ∈ (overlapsOf s).1, s.polyphony ≤ o.voice) := by
    rintro (hnil | hne | ⟨o, ho, hle⟩)
    · exact h.voices hnil
    · exact hne h.polyphony
    · exact absurd (h.overlaps o ho) (by omega)
  simp only [renderPull, h.listed, Bool.true_eq_false, if_false, if_neg hvoices]
  unfold pullContext
  cases renderVoices { shared := s.shared, overlaps := (overlapsOf s).1 } f 0 s.voices <;> rfl

theorem pullRenders_of_renderPull_eq_next {f : Nat} {s t : State} (h : renderPull f s = .next t) : PullRenders s := by
  unfold renderPull at h
  simp only at h
  split_ifs at h with hmode hvoices
  simp only [not_or, not_exists, not_and, not_le, not_not] at hvoices
  obtain ⟨hnil, hlen, hovs⟩ := hvoices
  exact ⟨by simpa using hmode, hnil, hlen, hovs⟩

/-! ### BUFFER_ATOMIC -/

/-- A rendering without overlaps ends the same whatever the host does later. -/
theorem endPull_ignores_host {f : Nat} {s t : State} (hmode : s.shared.commitMode = .bufferAtomic)
    {x : Rendered (List Buffer × List Voice)} (h : endPull f s x = .next t) (later : List HostEvent) :
    endPull f { s with host := later } x = .next { t with host := later } := by
  have hnow : overlapsOf s = ([], s.rr, s.host) := overlapsOf_of_bufferAtomic hmode
  have hlater : overlapsOf { s with host := later } = ([], s.rr, later) := overlapsOf_of_bufferAtomic hmode
  cases x with
  | done a =>
    rw [endPull, hnow] at h
    injection h with h
    rw [endPull, hlater, ← h]
    rfl
  | nonfinite r =>
    rw [endPull, hnow] at h
    injection h with h
    rw [endPull, hlater, ← h]
    rfl
  | stuck e => cases h

theorem renderPull_ignores_host {f : Nat} {s t : State} (hmode : s.shared.commitMode = .bufferAtomic)
    (h : renderPull f s = .next t) (later : List HostEvent) :
    renderPull f { s with host := later } = .next { t with host := later } := by
  have hs := pullRenders_of_renderPull_eq_next h
  have hovs : overlapsOf { s with host := later } = ([], s.rr, later) := overlapsOf_of_bufferAtomic hmode
  have hlater : PullRenders { s with host := later } :=
    ⟨hs.listed, hs.voices, hs.polyphony, by rw [hovs]; exact fun o ho => absurd ho List.not_mem_nil⟩
  have hcontext : pullContext { s with host := later } = pullContext s := by
    rw [pullContext, pullContext, hovs, overlapsOf_of_bufferAtomic hmode]
  rw [renderPull_eq_endPull hs] at h
  rw [renderPull_eq_endPull hlater, hcontext]
  exact endPull_ignores_host hmode h later

/-- Settles O58: the checks of PULL read nothing of the host, and in BUFFER_ATOMIC its rendering does not either. -/
theorem atomicPullIgnoresLaterCommands : Obligations.AtomicPullIgnoresLaterCommands := by
  intro s t f later hmode hexec
  show execPull f { s with host := later } = .next { t with host := later }
  rcases execPull_cases hexec with ⟨h0, rfl⟩ | ⟨h0, hp, rfl⟩ | ⟨h0, hp, hf, rfl⟩ | ⟨h0, hp, hf, hrender⟩
  · exact execPull_of_faulted (s := { s with host := later }) h0 f
  · exact execPull_of_unprimed (s := { s with host := later }) h0 hp f
  · exact execPull_of_badFrames (s := { s with host := later }) h0 hp hf
  · rw [execPull_of_framesLegal (s := { s with host := later }) h0 hp hf]
    exact renderPull_ignores_host hmode hrender later

end Sys2Proof.Machine
end

section
/-! PROOFS. A NOTE_ON that overlaps a PULL and lands at its start is a NOTE_ON before the PULL (R71, log 6): by operator, by
voice, over the voices, and for the machine. -/

namespace Sys2Proof.Machine

/-! ### one operator -/

/-- A hit on another voice leaves the rendering of an operator as it is. -/
theorem opRender_of_other_voice {ov : Overlap} {r : OpRef} (h : ov.voice ≠ r.voice) (g : GlobalConfig)
    (ovs : List Overlap) (m : Buffer) (o : Operator) :
    opRender ⟨g, ov :: ovs⟩ r m o = opRender ⟨g, ovs⟩ r m o := by
  have hpending : pendingFor (ov :: ovs) r o.cfg.rate = pendingFor ovs r o.cfg.rate := by simp [pendingFor, h]
  simp only [opRender, hpending]

/-- The writes of one NOTE_ON ahead of those already pending, all three landing at the start. -/
def noteFirst (p vol : F64) (w : PendingWrites) : PendingWrites :=
  { resets := 0 :: w.resets, pitches := (0, p) :: w.pitches, noteVols := (0, vol) :: w.noteVols }

theorem pendingFor_landAtStart {ov : Overlap} {r : OpRef} (hland : ov.landing = landAtStart) (hv : ov.voice = r.voice)
    (ovs : List Overlap) (rate : F64) :
    pendingFor (ov :: ovs) r rate = noteFirst (fmul ov.freq rate) ov.vol (pendingFor ovs r rate) := by
  have hzero : opLanding ov.landing r.op = ⟨0, 0, 0⟩ := by
    rw [hland]
    cases r.op <;> rfl
  simp [pendingFor, noteFirst, hv, hzero]

/-- Before any micro-step, writes that land at the start have the effect of OP_NOTE_ON (R130). -/
theorem landDue_noteFirst (t : Nat) (p vol : F64) (w : PendingWrites) (o : Operator) :
    landDue t (noteFirst p vol w) o = landDue t w (opNoteOn p vol o) := by
  simp [landDue, noteFirst, landField, opNoteOn]

/-- So the rendering, which begins with the writes that are due, is the one after OP_NOTE_ON. -/
theorem renderSamples_noteFirst (g : GlobalConfig) (r : OpRef) (p vol : F64) (w : PendingWrites) (t : Nat) (m : Buffer)
    (o : Operator) :
    renderSamples g r (noteFirst p vol w) t m o = renderSamples g r w t m (opNoteOn p vol o) := by
  cases m <;> simp only [renderSamples, landDue_noteFirst]

theorem opRender_landAtStart {ov : Overlap} {r : OpRef} (hland : ov.landing = landAtStart) (hv : ov.voice = r.voice)
    (g : GlobalConfig) (ovs : List Overlap) (m : Buffer) (o : Operator) :
    opRender ⟨g, ov :: ovs⟩ r m o =
      opRender ⟨g, ovs⟩ r m (opNoteOn (fmul ov.freq o.cfg.rate) ov.vol o) := by
  simp only [opRender, pendingFor_landAtStart hland hv, renderSamples_noteFirst, opNoteOn_cfg]

/-! ### voices that render alike -/

/-- Voice v renders in context c from x as it does in context c' from y: the same selector, and OP_RENDER of each operator
answers the same for every modulator. -/
structure RendersAlike (c c' : RenderContext) (v : Nat) (x y : Voice) : Prop where
  shared : c.shared = c'.shared
  alg : x.alg = y.alg
  ops : ∀ k m, opRender c ⟨v, k⟩ m (voiceOp x k) = opRender c' ⟨v, k⟩ m (voiceOp y k)

variable {c c' : RenderContext} {v : Nat} {x y : Voice}

/-- Once op3 is rendered, operators 2 and 1 are all that a routing reads (R148). -/
theorem RendersAlike.renderCarriers (h : RendersAlike c c' v x y) (o3 : Operator) (m2 : Buffer) (m1 : Buffer → Buffer)
    (vout : Buffer → Buffer → Buffer) :
    Machine.renderCarriers c v m2 m1 vout { x with op3 := o3 } =
      Machine.renderCarriers c' v m2 m1 vout { y with op3 := o3 } := by
  have h2 := h.ops .op2
  have h1 := h.ops .op1
  simp only [voiceOp_op1, voiceOp_op2] at h1 h2
  simp only [Machine.renderCarriers, h1, h2, h.alg]

/-- Whichever routing ALG[v] selects (R141). -/
theorem RendersAlike.routeSelected (h : RendersAlike c c' v x y) (o3 : Operator) (out3 : Buffer) :
    Machine.routeSelected c v out3 { x with op3 := o3 } = Machine.routeSelected c' v out3 { y with op3 := o3 } := by
  have hselected : decodeSelector x.alg = decodeSelector y.alg := by rw [h.alg]
  simp only [Machine.routeSelected, routeAlg0, routeAlg1, routeAlg2, routeAlg3, routeAlg4, hselected, h.shared,
    h.renderCarriers]

theorem RendersAlike.voiceRender (h : RendersAlike c c' v x y) (f : Nat) :
    Machine.voiceRender c v f x = Machine.voiceRender c' v f y := by
  have h3 := h.ops .op3
  simp only [voiceOp_op3] at h3
  simp only [Machine.voiceRender, h3, h.routeSelected]

/-- Voices that render alike, one by one, render alike together (R101). -/
theorem renderVoices_congr {f : Nat} {xs : List Voice} :
    ∀ {v : Nat} {ys : List Voice}, xs.length = ys.length →
      (∀ j x y, xs[j]? = some x → ys[j]? = some y → RendersAlike c c' (v + j) x y) →
      renderVoices c f v xs = renderVoices c' f v ys := by
  induction xs with
  | nil =>
    intro v ys hlen _
    rw [List.length_eq_zero_iff.mp hlen.symm]
    rfl
  | cons x xs ih =>
    intro v ys hlen h
    cases ys with
    | nil => cases hlen
    | cons y ys =>
      have hfirst : Machine.voiceRender c v f x = Machine.voiceRender c' v f y := (h 0 x y rfl rfl).voiceRender f
      have hrest : renderVoices c f (v + 1) xs = renderVoices c' f (v + 1) ys :=
        ih (Nat.succ.inj hlen) fun j x' y' hx hy => by
          rw [Nat.add_assoc, Nat.add_comm 1 j]
          exact h (j + 1) x' y' hx hy
      rw [renderVoices, renderVoices, hfirst, hrest]

/-! ### the voices of the PULL -/

/-- A voice that the hit does not reach. -/
theorem rendersAlike_of_other_voice {ov : Overlap} (h : ov.voice ≠ v) (g : GlobalConfig) (ovs : List Overlap)
    (x : Voice) : RendersAlike ⟨g, ov :: ovs⟩ ⟨g, ovs⟩ v x x :=
  ⟨rfl, rfl, fun k m => opRender_of_other_voice (r := ⟨v, k⟩) h g ovs m (voiceOp x k)⟩

/-- The voice of the hit, with the NOTE_ON done before (R149). -/
theorem rendersAlike_landAtStart {ov : Overlap} (hland : ov.landing = landAtStart) (hv : ov.voice = v)
    (g : GlobalConfig) (ovs : List Overlap) (x : Voice) :
    RendersAlike ⟨g, ov :: ovs⟩ ⟨g, ovs⟩ v x (voiceNoteOn ov.freq ov.vol x) := by
  refine ⟨rfl, rfl, fun k m => ?_⟩
  rw [voiceOp_voiceNoteOn]
  exact opRender_landAtStart (r := ⟨v, k⟩) hland hv g ovs m (voiceOp x k)

/-- Rendering with a hit that lands at the start is rendering the voices after its NOTE_ON. -/
theorem renderVoices_landAtStart {ov : Overlap} (hland : ov.landing = landAtStart) (g : GlobalConfig)
    (ovs : List Overlap) (f : Nat) (vs : List Voice) :
    renderVoices ⟨g, ov :: ovs⟩ f 0 vs = renderVoices ⟨g, ovs⟩ f 0 (landNote ov.voice ov.freq ov.vol vs) := by
  refine renderVoices_congr (landNote_length ..).symm fun j x y hx hy => ?_
  rw [Nat.zero_add]
  rw [landNote_getElem?, hx] at hy
  split_ifs at hy with hj
  · cases hy
    exact rendersAlike_landAtStart hland hj g ovs x
  · cases hy
    exact rendersAlike_of_other_voice hj g ovs x

/-! ### the machine -/

theorem nextRR_lt {p : Nat} (hp : 0 < p) (rr : BitVec 8) : (nextRR p rr).toNat < p := by
  rw [nextRR, BitVec.toNat_ofNat]
  exact (Nat.mod_le _ _).trans_lt (Nat.mod_lt _ hp)

/-- Every overlapping hit goes to a voice that exists, where RR points at one (R25). -/
theorem collectOverlaps_voice_lt {g : GlobalConfig} {p : Nat} {evs : List HostEvent} :
    ∀ {rr : BitVec 8}, rr.toNat < p → ∀ o ∈ (collectOverlaps g p rr evs).1, o.voice < p := by
  induction evs with
  | nil => exact fun _ o ho => absurd ho List.not_mem_nil
  | cons ev evs ih =>
    intro rr hrr o ho
    rcases collectOverlaps_cons_cases g p rr ev evs with
      ⟨w, l, n, v, f, -, -, -, h⟩ | ⟨w, l, n, v, -, -, -, h⟩ | ⟨-, h⟩ <;> rw [h] at ho
    · rcases List.mem_cons.mp ho with rfl | ho
      · exact hrr
      · exact ih (nextRR_lt (by omega) rr) o ho
    · exact ih hrr o ho
    · exact absurd ho List.not_mem_nil

/-- In FIELD_RACY a PULL renders where RR points at a voice and P voices are held. -/
theorem pullRenders_of_fieldRacy {s : State} (hmode : s.shared.commitMode = .fieldRacy)
    (hrr : s.rr.toNat < s.polyphony) (hp : s.polyphony = s.voices.length) : PullRenders s where
  listed := by rw [hmode]; rfl
  voices := List.ne_nil_of_length_pos (by omega)
  polyphony := hp
  overlaps := by
    rw [overlapsOf_of_fieldRacy hmode]
    exact collectOverlaps_voice_lt hrr

/-- The state after the NOTE_ON of a hit, with the host's events that are left then (R164). -/
def afterHit (f vol : F64) (rest : List HostEvent) (s : State) : State :=
  returnNothing
    { s with voices := landNote s.rr.toNat f vol s.voices, rr := nextRR s.polyphony s.rr, host := rest }

theorem execNoteOn_of_hit {n v : Nat} {f : F64} {s : State} (h0 : s.fault = 0#4)
    (hf : noteLookup s.shared n = some f) (hrr : s.rr.toNat < s.polyphony) (hp : s.polyphony = s.voices.length) :
    execNoteOn n v s = .next (afterHit f (velocityLevel v) s.host s) := by
  have hvoice : s.rr.toNat < s.polyphony ∧ s.rr.toNat < s.voices.length := ⟨hrr, hp ▸ hrr⟩
  rw [execNoteOn, if_neg (not_not.mpr h0), hf]
  exact if_pos hvoice

/-- A hit at the head of the host's events is the first overlap; what overlaps further is what overlaps the PULL after the
NOTE_ON. -/
theorem overlapsOf_hit {s : State} {w : Word} {n v : Nat} {f : F64} {l : NoteLanding} {rest : List HostEvent}
    (hmode : s.shared.commitMode = .fieldRacy) (hhost : s.host = .during w l :: rest)
    (hd : decode w = .ok (.noteOn n v)) (hf : noteLookup s.shared n = some f) :
    overlapsOf s =
      (⟨s.rr.toNat, f, velocityLevel v, l⟩ :: (overlapsOf (afterHit f (velocityLevel v) rest s)).1,
        (overlapsOf (afterHit f (velocityLevel v) rest s)).2) := by
  have hafter : overlapsOf (afterHit f (velocityLevel v) rest s) =
      collectOverlaps s.shared s.polyphony (nextRR s.polyphony s.rr) rest :=
    overlapsOf_of_fieldRacy (s := afterHit f (velocityLevel v) rest s) hmode
  rw [overlapsOf_of_fieldRacy hmode, hhost, hafter]
  exact collectOverlaps_hit hd hf s.polyphony s.rr l rest

/-- A rendering ends the same with one overlap more as after that overlap's NOTE_ON, in NONFINITE too, where every
overlapping write has landed (log 15). -/
theorem endPull_hit {s : State} {f vol : F64} {l : NoteLanding} {rest : List HostEvent}
    (h : overlapsOf s = (⟨s.rr.toNat, f, vol, l⟩ :: (overlapsOf (afterHit f vol rest s)).1,
      (overlapsOf (afterHit f vol rest s)).2))
    (frames : Nat) (x : Rendered (List Buffer × List Voice)) :
    endPull frames s x = endPull frames (afterHit f vol rest s) x := by
  cases x with
  | done a =>
    rw [endPull, h]
    rfl
  | nonfinite r =>
    rw [endPull, h]
    rfl
  | stuck e => rfl

/-- A PULL whose first overlap lands at the start is the PULL after that overlap's NOTE_ON. -/
theorem renderPull_landAtStart {s : State} {w : Word} {n v : Nat} {f : F64} {rest : List HostEvent}
    (hmode : s.shared.commitMode = .fieldRacy) (hhost : s.host = .during w landAtStart :: rest)
    (hd : decode w = .ok (.noteOn n v)) (hf : noteLookup s.shared n = some f)
    (hrr : s.rr.toNat < s.polyphony) (hp : s.polyphony = s.voices.length) (frames : Nat) :
    renderPull frames s = renderPull frames (afterHit f (velocityLevel v) rest s) := by
  have hovs := overlapsOf_hit hmode hhost hd hf
  have hbefore : PullRenders s := pullRenders_of_fieldRacy hmode hrr hp
  have hafter : PullRenders (afterHit f (velocityLevel v) rest s) :=
    pullRenders_of_fieldRacy hmode (nextRR_lt (Nat.zero_lt_of_lt hrr) s.rr) (hp.trans (landNote_length ..).symm)
  have hrender : renderVoices (pullContext s) frames 0 s.voices =
      renderVoices (pullContext (afterHit f (velocityLevel v) rest s)) frames 0
        (afterHit f (velocityLevel v) rest s).voices := by
    rw [pullContext, hovs]
    exact renderVoices_landAtStart rfl s.shared _ frames s.voices
  rw [renderPull_eq_endPull hbefore, renderPull_eq_endPull hafter, hrender, endPull_hit hovs]

/-- Settles O60: NOTE_ON answers the state after the hit, and the PULL from there is the PULL that the hit overlaps. -/
theorem overlapAtTheStartIsNoteOnFirst : Obligations.OverlapAtTheStartIsNoteOnFirst := by
  intro s w rest n v f freq hmode h0 hprimed hf1 hfmax hd hlookup hrr hp
  have hframes : framesLegal s.shared f = true := (framesLegal_iff _ _).mpr ⟨hf1, hfmax⟩
  have hnote : execNoteOn n v { s with host := rest } = .next (afterHit freq (velocityLevel v) rest s) :=
    execNoteOn_of_hit (s := { s with host := rest }) h0 hlookup hrr hp
  refine ⟨afterHit freq (velocityLevel v) rest s, hnote, ?_⟩
  calc execPull f { s with host := .during w landAtStart :: rest }
      = renderPull f { s with host := .during w landAtStart :: rest } :=
        execPull_of_framesLegal (s := { s with host := .during w landAtStart :: rest }) h0 hprimed hframes
    _ = renderPull f (afterHit freq (velocityLevel v) rest s) :=
        renderPull_landAtStart (s := { s with host := .during w landAtStart :: rest }) hmode rfl hd hlookup hrr hp f
    _ = execPull f (afterHit freq (velocityLevel v) rest s) :=
        (execPull_of_framesLegal (s := afterHit freq (velocityLevel v) rest s) h0 hprimed hframes).symm

end Sys2Proof.Machine
end

section
/-! PROOFS. The decoder and the encoder (R82 to R88, R92): a word is the fields it is put together from, so that decoding
and encoding are two readings of one table. -/

namespace Sys2Proof

/-! ### the fields of a word -/

/-- A field is two neighbouring fields put together. -/
theorem field_eq_append_iff {m n : Nat} (w : Word) (lo : Nat) (h : BitVec m) (l : BitVec n) :
    field w lo (m + n) = h ++ l ↔ field w (lo + n) m = h ∧ field w lo n = l := by
  have hjoin : field w lo (m + n) = field w (lo + n) m ++ field w lo n :=
    (BitVec.extractLsb'_append_extractLsb'_eq_extractLsb' rfl).symm
  constructor
  · intro heq
    rw [hjoin] at heq
    constructor
    · simpa [BitVec.extractLsb'_append_eq_left] using congrArg (BitVec.extractLsb' n m) heq
    · simpa [BitVec.extractLsb'_append_eq_right] using congrArg (BitVec.extractLsb' 0 n) heq
  · rintro ⟨rfl, rfl⟩
    exact hjoin

theorem field_zero_thirtyTwo (w : Word) : field w 0 32 = w := BitVec.extractLsb'_eq_self

theorem field_and (x y : Word) (lo len : Nat) : field (x &&& y) lo len = field x lo len &&& field y lo len :=
  BitVec.extractLsb'_and

theorem toNat_field (w : Word) (lo len : Nat) : (field w lo len).toNat = w.toNat / 2 ^ lo % 2 ^ len := by
  rw [field, BitVec.extractLsb'_toNat, Nat.shiftRight_eq_div_pow]

/-- The fields of the word of PRIME (R82). -/
theorem eq_primeWord_iff (w : Word) : w = 0x1#4 ++ 0#28 ↔ field w 28 4 = 0x1#4 ∧ field w 0 28 = 0#28 := by
  conv_lhs => rw [← field_zero_thirtyTwo w]
  exact field_eq_append_iff w 0 0x1#4 0#28

/-- The fields of the word of PULL (R83). -/
theorem eq_pullWord_iff (w : Word) (f : BitVec 24) :
    w = 0x2#4 ++ 0#4 ++ f ↔ (field w 28 4 = 0x2#4 ∧ field w 24 4 = 0#4) ∧ field w 0 24 = f := by
  conv_lhs => rw [← field_zero_thirtyTwo w]
  rw [field_eq_append_iff w 0 (0x2#4 ++ 0#4) f, field_eq_append_iff w 24 0x2#4 0#4]

/-- The fields of the word of NOTE_ON (R84). -/
theorem eq_noteOnWord_iff (w : Word) (n : BitVec 8) (v : BitVec 7) :
    w = 0x3#4 ++ 0#12 ++ n ++ 0#1 ++ v ↔
      (((field w 28 4 = 0x3#4 ∧ field w 16 12 = 0#12) ∧ field w 8 8 = n) ∧ field w 7 1 = 0#1) ∧ field w 0 7 = v := by
  conv_lhs => rw [← field_zero_thirtyTwo w]
  rw [field_eq_append_iff w 0 (0x3#4 ++ 0#12 ++ n ++ 0#1) v, field_eq_append_iff w 7 (0x3#4 ++ 0#12 ++ n) 0#1,
    field_eq_append_iff w 8 (0x3#4 ++ 0#12) n, field_eq_append_iff w 16 0x3#4 0#12]

/-! ### the decoder by fields -/

/-- R92: the words that decode, by their fields. -/
theorem decode_eq_ok_iff {w : Word} {i : Instr} :
    decode w = .ok i ↔
      (field w 28 4 = 0x1#4 ∧ field w 0 28 = 0#28 ∧ i = .prime) ∨
      (field w 28 4 = 0x2#4 ∧ field w 24 4 = 0#4 ∧ i = .pull (field w 0 24).toNat) ∨
      (field w 28 4 = 0x3#4 ∧ field w 16 12 = 0#12 ∧ field w 7 1 = 0#1 ∧
        i = .noteOn (field w 8 8).toNat (field w 0 7).toNat) := by
  constructor
  · intro h
    unfold decode at h
    simp only at h
    split_ifs at h with hop hres hop hres hop hres <;> injection h with h
    · exact .inl ⟨hop, hres, h.symm⟩
    · exact .inr (.inl ⟨hop, hres, h.symm⟩)
    · exact .inr (.inr ⟨hop, hres.1, hres.2, h.symm⟩)
  · rintro (⟨hop, hres, rfl⟩ | ⟨hop, hres, rfl⟩ | ⟨hop, hres, hres', rfl⟩)
    · simp [decode, hop, hres]
    · simp [decode, hop, hres]
    · simp [decode, hop, hres, hres']

/-! ### the two round trips -/

/-- The word that the encoder writes for an instruction decodes to it, where its operands fit. -/
theorem decode_of_encode {i : Instr} {w : Word} (hi : i.wellFormed = true) (h : encode i = .word w) :
    decode w = .ok i := by
  rw [decode_eq_ok_iff]
  cases i with
  | prime =>
    obtain ⟨hop, hres⟩ := (eq_primeWord_iff w).mp (Encoding.word.inj h).symm
    exact .inl ⟨hop, hres, rfl⟩
  | pull f =>
    have hf : f < 2 ^ 24 := by simpa [Instr.wellFormed] using hi
    obtain ⟨⟨hop, hres⟩, hframes⟩ := (eq_pullWord_iff w _).mp (Encoding.word.inj h).symm
    exact .inr (.inl ⟨hop, hres, by rw [hframes, BitVec.toNat_ofNat, Nat.mod_eq_of_lt hf]⟩)
  | noteOn n v =>
    obtain ⟨hn, hv⟩ : n < 2 ^ 8 ∧ v < 2 ^ 7 := by simpa [Instr.wellFormed] using hi
    obtain ⟨⟨⟨⟨hop, hres⟩, hnote⟩, hbit⟩, hvel⟩ := (eq_noteOnWord_iff w _ _).mp (Encoding.word.inj h).symm
    exact .inr (.inr ⟨hop, hres, hbit, by
      rw [hnote, hvel, BitVec.toNat_ofNat, BitVec.toNat_ofNat, Nat.mod_eq_of_lt hn, Nat.mod_eq_of_lt hv]⟩)
  | alg0 | alg1 | alg2 | alg3 | alg4 => cases h

/-- Settles O2: by the fields of the written word, and for the routings by the selector's table. -/
theorem decodeOfEncodeIsIdentity : Obligations.DecodeOfEncodeIsIdentity := by
  intro i hi
  cases i with
  | prime | pull _ | noteOn _ _ => exact decode_of_encode hi rfl
  | alg0 | alg1 | alg2 | alg3 | alg4 => rfl

/-- Settles O3: the fields that the decoder checks and returns are all of the word. -/
theorem encodeOfDecodeIsIdentity : Obligations.EncodeOfDecodeIsIdentity := by
  intro w i h
  rcases decode_eq_ok_iff.mp h with ⟨hop, hres, rfl⟩ | ⟨hop, hres, rfl⟩ | ⟨hop, hres, hbit, rfl⟩
  · exact ⟨rfl, congrArg Encoding.word ((eq_primeWord_iff w).mpr ⟨hop, hres⟩).symm⟩
  · refine ⟨decide_eq_true (field w 0 24).isLt, ?_⟩
    rw [encode, BitVec.ofNat_toNat, BitVec.setWidth_eq, ← (eq_pullWord_iff w _).mpr ⟨⟨hop, hres⟩, rfl⟩]
  · refine ⟨by simp [Instr.wellFormed, (field w 8 8).isLt, (field w 0 7).isLt], ?_⟩
    rw [encode, BitVec.ofNat_toNat, BitVec.ofNat_toNat, BitVec.setWidth_eq, BitVec.setWidth_eq,
      ← (eq_noteOnWord_iff w _ _).mpr ⟨⟨⟨⟨hop, hres⟩, rfl⟩, hbit⟩, rfl⟩]

/-! ### the opcode table -/

/-- A word masked to its low bits, shifted down, is one of its fields. -/
theorem toNat_shift_and_mask (w : Word) {mask : Word} {lo len : Nat} (hmask : mask.toNat = 2 ^ len - 1) :
    ((w >>> lo) &&& mask).toNat = (field w lo len).toNat := by
  rw [BitVec.toNat_and, hmask, Nat.and_two_pow_sub_one_eq_mod, BitVec.toNat_ushiftRight, field,
    BitVec.extractLsb'_toNat]

/-- The mask of PRIME is the whole word (R92). -/
theorem eq_primePattern_iff (w : Word) : w = 0x10000000#32 ↔ field w 28 4 = 0x1#4 ∧ field w 0 28 = 0#28 :=
  eq_primeWord_iff w

/-- The mask and pattern of PULL say what its opcode and its reserved bits are (R92). -/
theorem pullPattern_iff (w : Word) :
    w &&& 0xFF000000#32 = 0x20000000#32 ↔ field w 28 4 = 0x2#4 ∧ field w 24 4 = 0#4 := by
  have hop : field 0xFF000000#32 28 4 = BitVec.allOnes 4 := by decide
  have hres : field 0xFF000000#32 24 4 = BitVec.allOnes 4 := by decide
  have hframes : field 0xFF000000#32 0 24 = 0#24 := by decide
  refine (eq_pullWord_iff (w &&& 0xFF000000#32) 0#24).trans ?_
  simp only [field_and, hop, hres, hframes, BitVec.and_allOnes, BitVec.and_zero, and_true]

/-- The mask and pattern of NOTE_ON say what its opcode and its reserved bits are (R92). -/
theorem noteOnPattern_iff (w : Word) :
    w &&& 0xFFFF0080#32 = 0x30000000#32 ↔ field w 28 4 = 0x3#4 ∧ field w 16 12 = 0#12 ∧ field w 7 1 = 0#1 := by
  have hop : field 0xFFFF0080#32 28 4 = BitVec.allOnes 4 := by decide
  have hres : field 0xFFFF0080#32 16 12 = BitVec.allOnes 12 := by decide
  have hnote : field 0xFFFF0080#32 8 8 = 0#8 := by decide
  have hbit : field 0xFFFF0080#32 7 1 = BitVec.allOnes 1 := by decide
  have hvel : field 0xFFFF0080#32 0 7 = 0#7 := by decide
  refine (eq_noteOnWord_iff (w &&& 0xFFFF0080#32) 0#8 0#7).trans ?_
  simp only [field_and, hop, hres, hnote, hbit, hvel, BitVec.and_allOnes, BitVec.and_zero, and_true, and_assoc]

/-- Settles O1: each pattern is the fields that the decoder checks, and no other word decodes. -/
theorem decodeAgreesWithOpcodeTable : Obligations.DecodeAgreesWithOpcodeTable := by
  intro w
  refine ⟨fun h => ?_, fun h => ?_, fun h => ?_, fun hprime hpull hnote => ?_⟩
  · obtain ⟨hop, hres⟩ := (eq_primePattern_iff w).mp h
    exact decode_eq_ok_iff.mpr (.inl ⟨hop, hres, rfl⟩)
  · obtain ⟨hop, hres⟩ := (pullPattern_iff w).mp h
    have hframes : (w &&& 0x00FFFFFF#32).toNat = (field w 0 24).toNat := toNat_shift_and_mask w (lo := 0) rfl
    exact decode_eq_ok_iff.mpr (.inr (.inl ⟨hop, hres, congrArg Instr.pull hframes⟩))
  · obtain ⟨hop, hres, hbit⟩ := (noteOnPattern_iff w).mp h
    have hn : ((w >>> 8) &&& 0xFF#32).toNat = (field w 8 8).toNat := toNat_shift_and_mask w rfl
    have hv : (w &&& 0x7F#32).toNat = (field w 0 7).toNat := toNat_shift_and_mask w (lo := 0) rfl
    exact decode_eq_ok_iff.mpr (.inr (.inr ⟨hop, hres, hbit, congrArg₂ Instr.noteOn hn hv⟩))
  · cases hd : decode w with
    | error e => exact ⟨e, rfl⟩
    | ok i =>
      rcases decode_eq_ok_iff.mp hd with ⟨hop, hres, -⟩ | ⟨hop, hres, -⟩ | ⟨hop, hres, hbit, -⟩
      · exact absurd ((eq_primePattern_iff w).mpr ⟨hop, hres⟩) hprime
      · exact absurd ((pullPattern_iff w).mpr ⟨hop, hres⟩) hpull
      · exact absurd ((noteOnPattern_iff w).mpr ⟨hop, hres, hbit⟩) hnote

/-! ### the assembler's words -/

theorem assemble_eq_none {i : Instr} (h : i.wellFormed = false) : assemble i = none := by
  rw [assemble, h]

theorem assemble_eq_some {i : Instr} {w : Word} (h : i.wellFormed = true) (hw : encode i = .word w) :
    assemble i = some w := by
  rw [assemble, h, hw]

/-- The word of PULL F is 0x20000000 + F (R83). -/
theorem pullWord_eq_add {f : Nat} (hf : f < 2 ^ 24) :
    (0x2#4 ++ 0#4 ++ BitVec.ofNat 24 f : Word) = BitVec.ofNat 32 (0x20000000 + f) := by
  refine ((eq_pullWord_iff _ _).mpr ⟨⟨?_, ?_⟩, ?_⟩).symm <;>
  · apply BitVec.eq_of_toNat_eq
    simp only [toNat_field, BitVec.toNat_ofNat]
    omega

/-- The word of NOTE_ON n, v is 0x30000000 + 256 n + v (R84). -/
theorem noteOnWord_eq_add {n v : Nat} (hn : n < 2 ^ 8) (hv : v < 2 ^ 7) :
    (0x3#4 ++ 0#12 ++ BitVec.ofNat 8 n ++ 0#1 ++ BitVec.ofNat 7 v : Word) =
      BitVec.ofNat 32 (0x30000000 + 256 * n + v) := by
  refine ((eq_noteOnWord_iff _ _ _).mpr ⟨⟨⟨⟨?_, ?_⟩, ?_⟩, ?_⟩, ?_⟩).symm <;>
  · apply BitVec.eq_of_toNat_eq
    simp only [toNat_field, BitVec.toNat_ofNat]
    omega

/-- Settles O6: an operand that fits adds to the word of its command, and no other is well-formed (R89). -/
theorem assemblerRefusesWideOperands : Obligations.AssemblerRefusesWideOperands := by
  refine ⟨assemble_eq_some rfl rfl, fun f => ?_, fun n v => ?_⟩
  · split_ifs with hf
    · rw [← pullWord_eq_add hf]
      exact assemble_eq_some (decide_eq_true hf) rfl
    · exact assemble_eq_none (decide_eq_false hf)
  · split_ifs with hnv
    · rw [← noteOnWord_eq_add hnv.1 hnv.2]
      exact assemble_eq_some (by simpa [Instr.wellFormed] using hnv) rfl
    · exact assemble_eq_none (by simpa [Instr.wellFormed] using hnv)

/-! ### the selector field -/

/-- R88: 5, 6 and 7 select no routing. -/
theorem decodeSelector_of_five_le {alg : BitVec 3} (h : 5 ≤ alg.toNat) :
    decodeSelector alg = .error (.illegalSelector alg) := by
  have hne : ∀ k : BitVec 3, k.toNat < 5 → alg ≠ k := by
    rintro k hk rfl
    omega
  rw [decodeSelector, if_neg (hne 0#3 (by decide)), if_neg (hne 1#3 (by decide)), if_neg (hne 2#3 (by decide)),
    if_neg (hne 3#3 (by decide)), if_neg (hne 4#3 (by decide))]

/-- Settles O4: the legal words are the encoder's, for the illegal ones the decoder is evaluated. -/
theorem writtenWordsDecode : Obligations.WrittenWordsDecode :=
  ⟨decode_of_encode (i := .prime) rfl rfl, decode_of_encode (i := .pull 4) rfl rfl,
    decode_of_encode (i := .noteOn 69 100) rfl rfl, decode_of_encode (i := .noteOn 200 100) rfl rfl, rfl, rfl,
    rfl, rfl, rfl, rfl, rfl, fun _ h => ⟨_, decodeSelector_of_five_le h⟩⟩

end Sys2Proof
end

section
/-! PROOFS. The step that runs a waiting voice's routing, the placing of an instruction, and the routings where no voice is
rendered (R88, R141, log 7, log 8). -/

namespace Sys2Proof.Machine

/-! ### the selected routing -/

/-- The routing that ALG[v] selects is fetched for a waiting voice (R88, R141). -/
theorem fetch_of_voiceWaiting_eq_some {s : State} {c : Combiner} {x : Voice} {i : Instr}
    (hwait : voiceWaiting s = some c) (hx : s.voices[c.voice]? = some x) (hd : decodeSelector x.alg = .ok i) :
    fetch s = .instr i s := by
  simp only [fetch, hwait, hx, hd]

/-- Settles O8. -/
theorem stepRunsTheSelectedRouting : Obligations.StepRunsTheSelectedRouting := by
  intro s c x i h0 hc hout hx hd
  have hwait : voiceWaiting s = some c := voiceWaiting_eq_some.mpr ⟨hc, hout, h0⟩
  exact step_of_fetch_eq_instr (fetch_of_voiceWaiting_eq_some hwait hx hd)

/-! ### placing an instruction -/

/-- A row of 32 bits is a command word, read through its bytes (R64, R80). -/
theorem decode_of_decodeTableWord {w : Nat} {i : Instr} (h : decodeTableWord 32 w = some i) :
    decode (BitVec.ofNat 32 w) = .ok i := by
  have hbytes := decodeBytes_wordBytes (BitVec.ofNat 32 w) []
  rw [List.append_nil] at hbytes
  rw [decodeTableWord, if_neg (by decide), hbytes] at h
  cases hd : decode (BitVec.ofNat 32 w) with
  | error e => simp [hd] at h
  | ok j => simpa [hd] using h

/-- A row of one byte is a value of the selector field (R88). -/
theorem decodeSelector_of_decodeTableWord {w : Nat} {i : Instr} (h : decodeTableWord 8 w = some i) :
    decodeSelector (BitVec.ofNat 3 w) = .ok i := by
  rw [decodeTableWord, if_pos (by decide)] at h
  cases hd : decodeSelector (BitVec.ofNat 3 w) with
  | error e => simp [hd, Except.toOption] at h
  | ok j => simpa [hd, Except.toOption] using h

/-- A command word that is placed is taken, and the host's events are as before. -/
theorem step_placeCommand {w : Word} {i : Instr} (hd : decode w = .ok i) (s : State) :
    step (placeCommand w s) = exec i { s with combiner := none } :=
  stepRunsTheDecodedCommand (placeCommand w s) w landAtStart s.host i (voiceWaiting_of_combiner rfl) hd (.inl rfl)

/-- A selector value that is placed selects the routing of voice 0. -/
theorem step_placeSelector {alg : BitVec 3} {i : Instr} (hd : decodeSelector alg = .ok i) {s : State}
    (h0 : s.fault = 0#4) (hvoices : s.voices ≠ []) :
    step (placeSelector alg s) = exec i (placeSelector alg s) := by
  cases hs : s.voices with
  | nil => exact absurd hs hvoices
  | cons x xs =>
    have hx : (placeSelector alg s).voices[0]? = some { x with alg := alg } := by simp [placeSelector, hs]
    exact stepRunsTheSelectedRouting (placeSelector alg s) _ _ i h0 rfl rfl hx hd

/-- Settles O9: by the kind of the row, a command word or a selector value. -/
theorem placedInstructionRunsNext : Obligations.PlacedInstructionRunsNext := fun s _ _ =>
  ⟨fun h => step_placeCommand (decode_of_decodeTableWord h) s,
    fun h h0 hvoices => step_placeSelector (decodeSelector_of_decodeTableWord h) h0 hvoices⟩

/-! ### routings where no voice is rendered -/

/-- ALG0 to ALG4 differ in nothing but the routing datapath (R142 to R146). -/
theorem exec_eq_routeWith {i : Instr} (hi : i ∈ [Instr.alg0, Instr.alg1, Instr.alg2, Instr.alg3, Instr.alg4]) :
    ∃ route : Routing, ∀ s, exec i s = routeWith route s := by
  simp only [List.mem_cons, List.not_mem_nil, or_false] at hi
  rcases hi with rfl | rfl | rfl | rfl | rfl
  · exact ⟨routeAlg0, fun _ => rfl⟩
  · exact ⟨routeAlg1, fun _ => rfl⟩
  · exact ⟨routeAlg2, fun _ => rfl⟩
  · exact ⟨routeAlg3, fun _ => rfl⟩
  · exact ⟨routeAlg4, fun _ => rfl⟩

theorem routeWith_of_combiner_eq_none (route : Routing) {s : State} (h : s.combiner = none) :
    routeWith route s = .refused .noVoiceInCombiner := by
  rw [routeWith, h]

/-- A faulted FMD is quiescent, and the voice leaves the combiner (R182, log 8). -/
theorem routeWith_of_faulted (route : Routing) {s : State} {c : Combiner} (hc : s.combiner = some c)
    (h0 : s.fault ≠ 0#4) : routeWith route s = .next (returnNothing { s with combiner := none }) := by
  simp only [routeWith, hc, if_pos h0]

/-- Settles O51: for every routing datapath alike. -/
theorem routingsStopWithoutAVoice : Obligations.RoutingsStopWithoutAVoice := by
  intro s i hi
  obtain ⟨route, hroute⟩ := exec_eq_routeWith hi
  rw [hroute s]
  exact ⟨routeWith_of_combiner_eq_none route, fun c hc h0 => routeWith_of_faulted route hc h0⟩

end Sys2Proof.Machine
end

section
/-! PROOFS. The lengths of what a PULL renders, and the samples it returns (R90, R101, R102, R106). -/

namespace Sys2Proof.Machine

/-! ### lengths -/

@[simp] theorem silence_length (f : Nat) : (silence f).length = f := List.length_replicate

theorem satSum2_length {g : GlobalConfig} {a b : Buffer} {f : Nat} (ha : a.length = f) (hb : b.length = f) :
    (satSum2 g a b).length = f := by
  simp [satSum2, ha, hb]

theorem satSum3_length {g : GlobalConfig} {a b c : Buffer} {f : Nat} (ha : a.length = f) (hb : b.length = f)
    (hc : c.length = f) : (satSum3 g a b c).length = f := by
  simp [satSum3, ha, hb, hc]

/-- Where modulators and output keep the length F, a routing does (R102). -/
theorem renderCarriers_length {c : RenderContext} {v f : Nat} {m2 : Buffer} {m1 : Buffer → Buffer}
    {vout : Buffer → Buffer → Buffer} {x y : Voice} {b : Buffer}
    (h : renderCarriers c v m2 m1 vout x = .done (b, y)) (hm2 : m2.length = f)
    (hm1 : ∀ out2, out2.length = f → (m1 out2).length = f)
    (hvout : ∀ out1 out2, out1.length = f → out2.length = f → (vout out1 out2).length = f) : b.length = f := by
  obtain ⟨out2, o2, out1, o1, h2, h1, rfl, -⟩ := renderCarriers_eq_done.mp h
  have hout2 : out2.length = f := (opRender_length h2).trans hm2
  have hout1 : out1.length = f := (opRender_length h1).trans (hm1 out2 hout2)
  exact hvout out1 out2 hout1 hout2

/-- The routing that ALG[v] selects keeps the length of op3's buffer (R142 to R146). -/
theorem routeSelected_length {c : RenderContext} {v : Nat} {out3 b : Buffer} {x y : Voice}
    (h : routeSelected c v out3 x = .done (b, y)) : b.length = out3.length := by
  have hsilence := silence_length out3.length
  unfold routeSelected at h
  split at h
  · exact renderCarriers_length h rfl (fun _ h2 => h2) (fun _ _ h1 _ => h1)
  · exact renderCarriers_length h hsilence (fun _ h2 => satSum2_length rfl h2) (fun _ _ h1 _ => h1)
  · exact renderCarriers_length h rfl (fun _ _ => rfl) (fun _ _ => satSum2_length)
  · exact renderCarriers_length h rfl (fun _ _ => hsilence) (fun _ _ => satSum2_length)
  · exact renderCarriers_length h hsilence (fun _ _ => hsilence) (fun _ _ h1 h2 => satSum3_length h1 h2 rfl)
  · cases h

/-- VOICE_RENDER(v,F) gives F samples (R102, R141). -/
theorem voiceRender_length {c : RenderContext} {v f : Nat} {x y : Voice} {b : Buffer}
    (h : voiceRender c v f x = .done (b, y)) : b.length = f := by
  obtain ⟨⟨out3, o3⟩, h3, hroute⟩ := Rendered.andThen_eq_done.mp h
  calc b.length = out3.length := routeSelected_length hroute
    _ = (silence f).length := opRender_length h3
    _ = f := silence_length f

theorem sumVoices_length {f : Nat} {vouts : List Buffer} (h : ∀ b ∈ vouts, b.length = f) :
    (sumVoices f vouts).length = f := by
  induction vouts with
  | nil => exact silence_length f
  | cons b bs ih =>
    have hb : b.length = f := h b List.mem_cons_self
    have hbs : (sumVoices f bs).length = f := ih fun b' hb' => h b' (List.mem_cons_of_mem b hb')
    calc (List.zipWith (· + ·) b (sumVoices f bs)).length
        = min b.length (sumVoices f bs).length := List.length_zipWith
      _ = f := by rw [hb, hbs, min_self]

/-- The mix of buffers of F samples has F samples (R161). -/
theorem mix_length {f : Nat} {vouts : List Buffer} (h : ∀ b ∈ vouts, b.length = f) : (mix f vouts).length = f := by
  rw [mix, List.length_map, sumVoices_length h]

/-! ### the voices of a PULL -/

/-- Each voice of a PULL is rendered by VOICE_RENDER under its own number, and there are no other buffers (R101). -/
theorem renderVoices_voiceRender {c : RenderContext} {f : Nat} {xs : List Voice} :
    ∀ {v : Nat} {ys : List Voice} {bs : List Buffer}, renderVoices c f v xs = .done (bs, ys) →
      bs.length = xs.length ∧ (∀ b ∈ bs, b.length = f) ∧
        ∀ j x, xs[j]? = some x → ∃ b y,
          voiceRender c (v + j) f x = .done (b, y) ∧ bs[j]? = some b ∧ ys[j]? = some y := by
  induction xs with
  | nil =>
    intro v ys bs h
    obtain ⟨rfl, rfl⟩ : [] = bs ∧ [] = ys := by simpa [renderVoices] using h
    exact ⟨rfl, by simp, by simp⟩
  | cons x xs ih =>
    intro v ys bs h
    obtain ⟨b, y, bs', ys', hx, hxs, rfl, rfl⟩ := renderVoices_cons_eq_done.mp h
    obtain ⟨hcount, hlength, hvoices⟩ := ih hxs
    refine ⟨congrArg (· + 1) hcount, List.forall_mem_cons.mpr ⟨voiceRender_length hx, hlength⟩, fun j x' hx' => ?_⟩
    cases j with
    | zero =>
      obtain rfl : x = x' := by simpa using hx'
      exact ⟨b, y, hx, rfl, rfl⟩
    | succ j =>
      rw [← Nat.add_assoc, Nat.add_right_comm]
      exact hvoices j x' (by simpa using hx')

/-! ### the PULL -/

/-- A PULL that ends with FAULT 0 has passed its checks and rendered (R189). -/
theorem renderPull_of_fault_eq_zero {f : Nat} {s t : State} (h : execPull f s = .next t) (ht : t.fault = 0#4) :
    s.fault = 0#4 ∧ framesLegal s.shared f = true ∧ renderPull f s = .next t := by
  rcases execPull_cases h with ⟨hne, rfl⟩ | ⟨-, -, rfl⟩ | ⟨-, -, -, rfl⟩ | ⟨h0, -, hframes, hrender⟩
  · exact absurd ht hne
  · exact absurd ht (raiseFault_fault_ne_zero (by decide) s)
  · exact absurd ht (raiseFault_fault_ne_zero (by decide) s)
  · exact ⟨h0, hframes, hrender⟩

/-- Settles O54: the voices by induction over them, the samples by the lengths of their buffers. -/
theorem pullReturnsTheMixOfItsVoices : Obligations.PullReturnsTheMixOfItsVoices := by
  intro s t f hexec ht
  obtain ⟨h0, hframes, hrender⟩ := renderPull_of_fault_eq_zero hexec ht
  obtain ⟨hf1, hfmax⟩ := (framesLegal_iff _ _).mp hframes
  have hpoly : s.polyphony = s.voices.length := (pullRenders_of_renderPull_eq_next hrender).polyphony
  obtain ⟨bs, vs, hvoices, rfl⟩ := execPull_of_fault_eq_zero h0 hexec ht
  obtain ⟨hcount, hlength, heach⟩ := renderVoices_voiceRender hvoices
  refine ⟨hf1, hfmax, bs, hcount.trans hpoly.symm, mix_length hlength, rfl, fun j x hx => ?_⟩
  obtain ⟨b, y, hb, hbj, hyj⟩ := heach j x hx
  rw [Nat.zero_add] at hb
  exact ⟨b, y, hb, voiceRender_length hb, hbj, hyj⟩

end Sys2Proof.Machine
end

section
/-! PROOFS. PRIME, and what a NONFINITE fault leaves alone (R100, R101, R181). -/

namespace Sys2Proof.Machine

/-! ### PRIME (R100) -/

theorem execPrime_of_faulted {s : State} (h : s.fault ≠ 0#4) : execPrime s = .next (returnNothing s) := by
  rw [execPrime, if_pos h]

theorem execPrime_of_primed {s : State} (h0 : s.fault = 0#4) (hp : s.primed = true) :
    execPrime s = .next (raiseFault .primeTwice s) := by
  rw [execPrime, if_neg (not_not.mpr h0), if_pos hp]

theorem execPrime_of_unprimed {s : State} (h0 : s.fault = 0#4) (hp : s.primed = false) :
    execPrime s = .next (returnBuffer [] { s with primed := true }) := by
  rw [execPrime, if_neg (not_not.mpr h0), hp]
  rfl

/-- While FAULT is 0 a raised fault is recorded, and the command returns nothing (R181). -/
theorem raiseFault_of_fault_eq_zero {s : State} (h0 : s.fault = 0#4) (code : FaultCode) :
    raiseFault code s = { s with fault := faultBits code, response := none, combiner := none } := by
  rw [raiseFault, if_pos h0]

/-- Settles O25, one case of R100 after the other. -/
theorem primePerformsTheHandshake : Obligations.PrimePerformsTheHandshake := by
  intro s
  refine ⟨execPrime_of_faulted, fun h0 hp => ?_, execPrime_of_unprimed⟩
  calc execPrime s = .next (raiseFault .primeTwice s) := execPrime_of_primed h0 hp
    _ = .next { s with fault := 5#4, response := none, combiner := none } :=
      congrArg _ (raiseFault_of_fault_eq_zero h0 .primeTwice)

/-! ### NONFINITE (R181) -/

/-- What R181 leaves unspecified of an operator is neither PITCH nor NOTE_VOL, reached or not. -/
theorem abandonVoices_pitch_noteVol {draw : Nat} {stop : OpRef} {xs : List Voice} :
    ∀ {v j : Nat} {x : Voice}, xs[j]? = some x → ∃ y, (abandonVoices draw stop v xs)[j]? = some y ∧
      ∀ k, (voiceOp y k).pitch = (voiceOp x k).pitch ∧ (voiceOp y k).noteVol = (voiceOp x k).noteVol := by
  induction xs with
  | nil =>
    intro v j x hx
    simp at hx
  | cons z zs ih =>
    intro v j x hx
    cases j with
    | zero =>
      obtain rfl : z = x := by simpa using hx
      refine ⟨_, rfl, fun k => ?_⟩
      rw [voiceOp_mapOps]
      split_ifs <;> exact ⟨rfl, rfl⟩
    | succ j => exact ih (by simpa using hx)

/-- A PULL that ends with FAULT 7 from FAULT 0 has ended in NONFINITE (R180, R189). -/
theorem execPull_of_nonfinite {f : Nat} {s t : State} (h0 : s.fault = 0#4) (h : execPull f s = .next t)
    (ht : t.fault = 7#4) :
    ∃ r, t = raiseNonfinite r (overlapsOf s).1 { s with rr := (overlapsOf s).2.1, host := (overlapsOf s).2.2 } := by
  rcases execPull_cases h with ⟨hne, -⟩ | ⟨-, -, rfl⟩ | ⟨-, -, -, rfl⟩ | ⟨-, -, -, hrender⟩
  · exact absurd h0 hne
  · rw [raiseFault_fault, if_pos h0] at ht
    exact absurd ht (by decide)
  · rw [raiseFault_fault, if_pos h0] at ht
    exact absurd ht (by decide)
  · rcases renderPull_cases hrender with ⟨bs, vs, -, rfl⟩ | ⟨r, -, rfl⟩
    · exact absurd (h0.symm.trans ht) (by decide)
    · exact ⟨r, rfl⟩

/-- Settles O15: in BUFFER_ATOMIC nothing overlaps, so that the voices are those of before with the reached operators'
PHASE, ENV_N, ENV_CUR and RESET left open. -/
theorem nonfiniteFaultFrame : Obligations.NonfiniteFaultFrame := by
  intro s t f h0 hmode hexec ht
  have hconfig : t.config = s.config := execPull_config hexec
  obtain ⟨r, rfl⟩ := execPull_of_nonfinite h0 hexec ht
  rw [overlapsOf_of_bufferAtomic hmode] at hconfig ⊢
  exact ⟨rfl, rfl, rfl, rfl, hconfig, fun j x hx => abandonVoices_pitch_noteVol hx⟩

end Sys2Proof.Machine
end

section
/-! PROOFS. What a PULL writes of the operators that no NOTE_ON overlaps (R101, R110, R125 to R127): one operator, one
voice, the voices, and the machine. -/

namespace Sys2Proof.Machine

/-! ### one operator -/

/-- What one sample writes: an envelope step and a phase increment (R110, R125). -/
def advanceOp (g : GlobalConfig) (o : Operator) : Operator := advancePhase g (envAdvance o).2

theorem sampleStep_advanceOp {g : GlobalConfig} {r : OpRef} {m y : Int} {o o' : Operator}
    (h : sampleStep g r m o = .done (y, o')) : o' = advanceOp g o := by
  obtain ⟨idx, w, -, -, -, -, ho'⟩ := sampleStep_eq_done.mp h
  exact ho'

/-- R126's loop with no write pending: one sample's writes for each modulator sample, then END_OF_BUFFER. -/
theorem renderSamples_noWrites {g : GlobalConfig} {r : OpRef} {m : Buffer} :
    ∀ {t : Nat} {o o' : Operator} {out : Buffer}, renderSamples g r ⟨[], [], []⟩ t m o = .done (out, o') →
      o' = endOfBuffer ((advanceOp g)^[m.length] o) := by
  induction m with
  | nil =>
    intro t o o' out h
    simp only [renderSamples, landDue_none, landAll_none, Rendered.done.injEq, Prod.mk.injEq] at h
    exact h.2.symm
  | cons x xs ih =>
    intro t o o' out h
    obtain ⟨y, o1, ys, hstep, hrest, -⟩ := renderSamples_cons_eq_done.mp h
    rw [landDue_none] at hstep hrest
    rw [ih hrest, sampleStep_advanceOp hstep, List.length_cons, Function.iterate_succ_apply]

/-- The envelope does not read PHASE (R110). -/
theorem envAdvance_setPhase (o : Operator) (p : F64) :
    (envAdvance { o with phase := p }).2 = { (envAdvance o).2 with phase := p } := by
  simp only [envAdvance, envWrite]
  split_ifs <;> rfl

/-- Envelope steps write ENV_N and ENV_CUR only. -/
theorem envAfter_frame (o : Operator) (n : Nat) :
    envAfter o n = { o with envN := (envAfter o n).envN, envCur := (envAfter o n).envCur } := by
  induction n with
  | zero => rfl
  | succ n ih =>
    rw [envAfter, envAdvance_frame, ih]

/-- The envelope and PHASE advance side by side. -/
theorem advanceOp_iterate (g : GlobalConfig) (o : Operator) (n : Nat) :
    (advanceOp g)^[n] o = { envAfter o n with phase := phaseAfter g o n } := by
  induction n with
  | zero => rfl
  | succ n ih =>
    have hpitch : (envAfter o (n + 1)).pitch = o.pitch := by rw [envAfter_frame]
    have hinc : phaseInc g (envAfter o (n + 1)) = fdiv (fmul (f64 g.wtLen) o.pitch) (f64 g.sampleRate) := by
      rw [phaseInc, hpitch]
    calc (advanceOp g)^[n + 1] o = advanceOp g { envAfter o n with phase := phaseAfter g o n } := by
          rw [Function.iterate_succ_apply', ih]
      _ = advancePhase g { envAfter o (n + 1) with phase := phaseAfter g o n } :=
          congrArg (advancePhase g) (envAdvance_setPhase (envAfter o n) (phaseAfter g o n))
      _ = { envAfter o (n + 1) with phase := phaseAfter g o (n + 1) } := by
          rw [phaseAfter, ← hinc]
          rfl

/-- The writes of n samples and END_OF_BUFFER are those of `pulledOp` (R127). -/
theorem endOfBuffer_advanceOp_iterate (g : GlobalConfig) (n : Nat) (o : Operator) :
    endOfBuffer ((advanceOp g)^[n] o) = pulledOp g n o := by
  rw [advanceOp_iterate, envAfter_frame]
  cases hreset : o.reset with
  | false => simp [endOfBuffer, pulledOp, hreset]
  | true => simp [endOfBuffer, pulledOp, hreset, envRetrigger, toEnvN]

/-- OP_RENDER of an operator that no NOTE_ON overlaps (R126). -/
theorem opRender_pulledOp {g : GlobalConfig} {r : OpRef} {m out : Buffer} {o o' : Operator}
    (h : opRender ⟨g, []⟩ r m o = .done (out, o')) : o' = pulledOp g m.length o :=
  (renderSamples_noWrites h).trans (endOfBuffer_advanceOp_iterate g m.length o)

/-- PHASE after F samples, with R125's increment written out. -/
theorem phaseAfter_eq_iterate (g : GlobalConfig) (o : Operator) (n : Nat) :
    phaseAfter g o n =
      (fun p => fadd p (fdiv (fmul (f64 g.wtLen) o.pitch) (f64 g.sampleRate)))^[n] o.phase := by
  induction n with
  | zero => rfl
  | succ n ih => rw [Function.iterate_succ_apply', ← ih, phaseAfter]

/-! ### one voice -/

/-- A routing renders the carriers with modulators that satisfy P wherever silence, op3's buffer and every clamped sum
do (R142 to R146); an ALG[v] of 5 to 7 selects none (R147). -/
theorem routeSelected_cases {P : Buffer → Prop} {c : RenderContext} {v : Nat} {out3 : Buffer} (x : Voice)
    (hsilence : P (silence out3.length)) (hsum : ∀ a b, P a → P b → P (satSum2 c.shared a b)) (h3 : P out3) :
    (4 < x.alg.toNat ∧ routeSelected c v out3 x = .stuck .illegalSelector) ∨
    ∃ m2 m1 vout, P m2 ∧ (∀ out2, P out2 → P (m1 out2)) ∧
      routeSelected c v out3 x = renderCarriers c v m2 m1 vout x := by
  rcases lt_or_ge 4 x.alg.toNat with hillegal | hlegal
  · exact .inl ⟨hillegal, by rw [routeSelected, decodeSelector_of_five_le hillegal]⟩
  right
  rcases (alg_le_four_iff x.alg).mp hlegal with halg | halg | halg | halg | halg <;> unfold routeSelected <;> rw [halg]
  · exact ⟨_, _, _, h3, fun _ h2 => h2, rfl⟩
  · exact ⟨_, _, _, hsilence, fun _ h2 => hsum _ _ h3 h2, rfl⟩
  · exact ⟨_, _, _, h3, fun _ _ => h3, rfl⟩
  · exact ⟨_, _, _, h3, fun _ _ => hsilence, rfl⟩
  · exact ⟨_, _, _, hsilence, fun _ _ => hsilence, rfl⟩

theorem renderCarriers_pulledOp {g : GlobalConfig} {v f : Nat} {m2 : Buffer} {m1 : Buffer → Buffer}
    {vout : Buffer → Buffer → Buffer} {x y : Voice} {b : Buffer}
    (h : renderCarriers ⟨g, []⟩ v m2 m1 vout x = .done (b, y)) (hm2 : m2.length = f)
    (hm1 : ∀ out2, out2.length = f → (m1 out2).length = f) :
    y = { x with op1 := pulledOp g f x.op1, op2 := pulledOp g f x.op2 } := by
  obtain ⟨out2, o2, out1, o1, h2, h1, -, rfl⟩ := renderCarriers_eq_done.mp h
  have hout2 : out2.length = f := (opRender_length h2).trans hm2
  rw [opRender_pulledOp h1, opRender_pulledOp h2, hm2, hm1 out2 hout2]

/-- VOICE_RENDER(v,F) advances each of its operators F samples, whatever the routing (R141). -/
theorem voiceRender_pulledOp {g : GlobalConfig} {v f : Nat} {x y : Voice} {b : Buffer}
    (h : voiceRender ⟨g, []⟩ v f x = .done (b, y)) : y = mapOps (fun _ o => pulledOp g f o) x := by
  obtain ⟨⟨out3, o3⟩, h3, hroute⟩ := Rendered.andThen_eq_done.mp h
  have hlen : out3.length = f := (opRender_length h3).trans (silence_length f)
  have ho3 : o3 = pulledOp g f x.op3 := by
    rw [opRender_pulledOp h3, silence_length]
  rcases routeSelected_cases (P := fun m => m.length = f) { x with op3 := o3 } (by rw [silence_length, hlen])
    (fun _ _ => satSum2_length) hlen with ⟨-, hstuck⟩ | ⟨m2, m1, vout, hm2, hm1, hcarriers⟩
  · rw [hstuck] at hroute
    cases hroute
  · rw [hcarriers] at hroute
    rw [renderCarriers_pulledOp hroute hm2 hm1, ho3]
    rfl

/-! ### the voices and the machine -/

theorem renderVoices_pulledOp {g : GlobalConfig} {f : Nat} {xs : List Voice} :
    ∀ {v : Nat} {ys : List Voice} {bs : List Buffer}, renderVoices ⟨g, []⟩ f v xs = .done (bs, ys) →
      ys = xs.map (mapOps fun _ o => pulledOp g f o) := by
  induction xs with
  | nil =>
    intro v ys bs h
    simp only [renderVoices, Rendered.done.injEq, Prod.mk.injEq] at h
    exact h.2.symm
  | cons x xs ih =>
    intro v ys bs h
    obtain ⟨b, y, bs', ys', hx, hxs, -, rfl⟩ := renderVoices_cons_eq_done.mp h
    rw [voiceRender_pulledOp hx, ih hxs, List.map_cons]

/-- Where none of the NOTE_ONs issued during a PULL hits, RR stays (R165). -/
theorem collectOverlaps_rr_of_nil {g : GlobalConfig} {p : Nat} {evs : List HostEvent} :
    ∀ {rr : BitVec 8}, (collectOverlaps g p rr evs).1 = [] → (collectOverlaps g p rr evs).2.1 = rr := by
  induction evs with
  | nil => exact fun _ => rfl
  | cons ev evs ih =>
    intro rr h
    rcases collectOverlaps_cons_cases g p rr ev evs with
      ⟨w, l, n, v, f, -, -, -, hr⟩ | ⟨w, l, n, v, -, -, -, hr⟩ | ⟨-, hr⟩ <;> rw [hr] at h ⊢
    · cases h
    · exact ih h

theorem overlapsOf_rr_of_nil {s : State} (h : (overlapsOf s).1 = []) : (overlapsOf s).2.1 = s.rr := by
  rcases overlapsOf_cases s with hr | ⟨-, hr⟩ <;> rw [hr] at h ⊢
  exact collectOverlaps_rr_of_nil h

/-- No NOTE_ON overlaps a PULL in BUFFER_ATOMIC, nor without a hit (R70, R71). -/
theorem overlapsOf_eq_nil {s : State} (h : s.shared.commitMode = .bufferAtomic ∨ (overlapsOf s).1 = []) :
    (overlapsOf s).1 = [] :=
  h.elim (fun hmode => by rw [overlapsOf_of_bufferAtomic hmode]) id

/-- Settles O55: the voices by what VOICE_RENDER leaves of them, the rest by what the end of a PULL writes. -/
theorem pullAdvancesEveryOperator : Obligations.PullAdvancesEveryOperator := by
  intro s t f hmode hexec ht
  have hnil := overlapsOf_eq_nil hmode
  obtain ⟨h0, -, -⟩ := renderPull_of_fault_eq_zero hexec ht
  obtain ⟨bs, vs, hvoices, rfl⟩ := execPull_of_fault_eq_zero h0 hexec ht
  rw [hnil] at hvoices
  have hvs : vs = s.voices.map (mapOps fun _ o => pulledOp s.shared f o) := renderVoices_pulledOp hvoices
  refine ⟨hvs, fun j x hx => ⟨mapOps (fun _ o => pulledOp s.shared f o) x, ?_, fun k => ?_⟩, rfl, rfl,
    overlapsOf_rr_of_nil hnil, rfl, rfl, rfl, rfl, fun hatomic => ?_⟩
  · rw [returnBuffer_voices, hvs, List.getElem?_map, hx, Option.map_some]
  · rw [voiceOp_mapOps]
    exact phaseAfter_eq_iterate s.shared (voiceOp x k) f
  · rw [returnBuffer_host, overlapsOf_of_bufferAtomic hatomic]

end Sys2Proof.Machine
end

section
/-! PROOFS. Arithmetic that stays far from overflow (R11, R187): PHASE is measured in multiples of 2^924, the largest
increment of an operator whose PITCH is at most 2^900, and every such multiple below 2^53 is a binary64 value. -/

namespace Sys2Proof.Machine

/-- Rounding passes no finite value in magnitude, and so reaches no infinity. -/
theorem RoundedTo.finite_of_abs_le {e : ℚ} {r z : F64} (h : RoundedTo e r) (hz : isFinite z = true)
    (he : |e| ≤ toRat z) : isFinite r = true ∧ |toRat r| ≤ toRat z := by
  have hlt : |e| < 2 ^ 1024 - 2 ^ 970 := by
    have hmax := (he.trans (le_abs_self _)).trans (abs_toRat_le hz)
    have hunit : (0 : ℚ) < 2 ^ 970 := by positivity
    rw [overflowThreshold_eq]
    rw [pow_succ' 2 970] at hmax
    generalize (2 : ℚ) ^ 970 = u at hunit hmax
    linarith
  obtain ⟨hlow, hhigh⟩ := abs_le.mp he
  have hz' : isFinite (fneg z) = true := by rwa [isFinite_fneg]
  have hge := h.ge_of_ge hlt hz' (by rwa [toRat_fneg])
  rw [toRat_fneg] at hge
  have hle := h.le_of_le hlt hz hhigh
  rw [RoundedTo, if_pos hlt] at h
  exact ⟨h.1, abs_le.mpr ⟨hge, hle⟩⟩

/-- k units of 2^924 are a binary64 value where k fits the significand. -/
theorem exists_toRat_eq_mul_two_pow {k : ℕ} (hk : k < 2 ^ 53) :
    ∃ z, isFinite z = true ∧ toRat z = k * 2 ^ 924 := by
  rcases Nat.eq_zero_or_pos k with rfl | hpos
  · exact ⟨zero false, isFinite_zero false, by rw [toRat_zero, Nat.cast_zero, zero_mul]⟩
  have hval : (k : ℚ) / (1 : ℕ) * 2 ^ (924 : ℤ) = k * 2 ^ 924 := by
    simp only [Nat.cast_one, div_one, zpow_ofNat]
  have hlast : lastPlace k 1 924 ≤ 924 := by
    have := lastPlace_of_lt hpos hk
    unfold lastPlace at this ⊢
    omega
  have hunits : (k : ℚ) / (1 : ℕ) * 2 ^ (924 : ℤ) =
      ((k * 2 ^ (924 - lastPlace k 1 924).toNat : ℤ) : ℚ) * 2 ^ lastPlace k 1 924 := by
    rw [Int.cast_mul, Int.cast_pow, Int.cast_natCast, Int.cast_ofNat, Nat.cast_one, div_one, mul_assoc, ← zpow_natCast,
      ← zpow_add₀ two_ne_zero, Int.toNat_of_nonneg (by omega), sub_add_cancel]
  have hsmall : (k : ℚ) * 2 ^ 924 < 2 ^ 1024 - 2 ^ 970 := by
    have hk' : (k : ℚ) < 2 ^ 54 - 1 := lt_trans (b := 2 ^ 53) (mod_cast hk) (by norm_num)
    have hpow : (2 : ℚ) ^ 924 ≤ 2 ^ 970 := pow_le_pow_right₀ (by norm_num) (by norm_num)
    rw [overflowThreshold_eq]
    exact mul_lt_mul hk' hpow (by positivity) (by norm_num)
  obtain ⟨hfin, hz⟩ := toRat_roundToF64_of_exact false hpos one_pos hunits (hval.trans_lt hsmall)
  exact ⟨_, hfin, by rw [hz, hval, signFactor_false, one_mul]⟩

/-- A finite value of at most k units of 2^924. -/
structure WithinUnits (k : ℕ) (x : F64) : Prop where
  finite : isFinite x = true
  bound : |toRat x| ≤ k * 2 ^ 924

theorem RoundedTo.withinUnits {e : ℚ} {r : F64} {k : ℕ} (h : RoundedTo e r) (hk : k < 2 ^ 53)
    (he : |e| ≤ k * 2 ^ 924) : WithinUnits k r := by
  obtain ⟨z, hz, hval⟩ := exists_toRat_eq_mul_two_pow hk
  rw [← hval] at he
  obtain ⟨hfin, hle⟩ := h.finite_of_abs_le hz he
  exact ⟨hfin, hval ▸ hle⟩

/-- A sum adds the units, with nothing lost to rounding (R125). -/
theorem WithinUnits.fadd {j k : ℕ} {x y : F64} (hx : WithinUnits j x) (hy : WithinUnits k y) (h : j + k < 2 ^ 53) :
    WithinUnits (j + k) (fadd x y) := by
  refine (roundedTo_fadd hx.finite hy.finite).withinUnits h ?_
  calc |toRat x + toRat y| ≤ |toRat x| + |toRat y| := abs_add_le _ _
    _ ≤ j * 2 ^ 924 + k * 2 ^ 924 := add_le_add hx.bound hy.bound
    _ = (j + k : ℕ) * 2 ^ 924 := by rw [Nat.cast_add, add_mul]

/-- What is at most 2^900 is at most one unit. -/
theorem withinUnits_one {x : F64} (hx : isFinite x = true) (h : |toRat x| ≤ 2 ^ 900) : WithinUnits 1 x := by
  refine ⟨hx, h.trans ?_⟩
  rw [Nat.cast_one, one_mul]
  exact pow_le_pow_right₀ (by norm_num) (by norm_num)

/-- R125's increment under a legal configuration, for a PITCH of at most 2^900. -/
theorem withinUnits_phaseInc {g : GlobalConfig} (hg : SharedOk g) {o : Operator} (hpitch : isFinite o.pitch = true)
    (h : |toRat o.pitch| ≤ 2 ^ 900) : WithinUnits 1 (phaseInc g o) := by
  obtain ⟨hlen0, hlen⟩ := hg.wtLen
  obtain ⟨hsr0, hsr⟩ := hg.sampleRate
  obtain ⟨hlf, hlv⟩ := integerConversionIsExact g.wtLen (abs_lt.mpr (by omega))
  obtain ⟨hsf, hsv⟩ := integerConversionIsExact g.sampleRate (abs_lt.mpr (by omega))
  have hsr1 : (1 : ℚ) ≤ g.sampleRate := mod_cast hsr0
  have hprod : WithinUnits 1 (fmul (f64 g.wtLen) o.pitch) := by
    refine (productsAndQuotientsAreCorrectlyRounded _ _ hlf hpitch).1.1.withinUnits (by norm_num) ?_
    have hlen' : |(g.wtLen : ℚ)| ≤ 2 ^ 24 := by
      rw [abs_of_nonneg (by exact_mod_cast (by omega : 0 ≤ g.wtLen))]
      exact_mod_cast hlen
    calc |toRat (f64 g.wtLen) * toRat o.pitch| = |(g.wtLen : ℚ)| * |toRat o.pitch| := by rw [hlv, abs_mul]
      _ ≤ 2 ^ 24 * 2 ^ 900 := mul_le_mul hlen' h (abs_nonneg _) (by norm_num)
      _ = (1 : ℕ) * 2 ^ 924 := by rw [← pow_add, Nat.cast_one, one_mul]
  have hquot := ((productsAndQuotientsAreCorrectlyRounded _ _ hprod.finite hsf).2
    (by rw [hsv]; exact (by linarith : (0 : ℚ) < g.sampleRate).ne')).1
  refine hquot.withinUnits (by norm_num) ?_
  rw [hsv, abs_div, abs_of_pos (by linarith : (0 : ℚ) < g.sampleRate)]
  exact (div_le_self (abs_nonneg _) hsr1).trans hprod.bound

theorem fullScale_eq : F64.fullScale = f64 32767 := by decide +kernel

/-- R121's offset under a legal configuration, for a modulator sample in range. -/
theorem withinUnits_phaseOffset {g : GlobalConfig} (hg : SharedOk g) {m : ℤ} (hm : -32768 ≤ m ∧ m ≤ 32767) :
    WithinUnits 1 (phaseOffset g m) := by
  obtain ⟨hlen0, hlen⟩ := hg.wtLen
  have hmL : |m * g.wtLen| ≤ 2 ^ 15 * 2 ^ 24 := by
    rw [abs_mul]
    exact mul_le_mul (abs_le.mpr (by omega)) (abs_le.mpr (by omega)) (abs_nonneg _) (by norm_num)
  rw [phaseOffset, fullScale_eq]
  refine (roundedTo_fdiv_f64 (hmL.trans_lt (by norm_num)) (by norm_num) (by norm_num)).withinUnits (by norm_num) ?_
  have hmL' : |((m * g.wtLen : ℤ) : ℚ)| ≤ 2 ^ 39 := by exact_mod_cast hmL
  rw [abs_div, Nat.cast_one, one_mul]
  calc |((m * g.wtLen : ℤ) : ℚ)| / |((32767 : ℤ) : ℚ)| ≤ |((m * g.wtLen : ℤ) : ℚ)| :=
        div_le_self (abs_nonneg _) (by norm_num)
    _ ≤ 2 ^ 39 := hmL'
    _ ≤ 2 ^ 924 := pow_le_pow_right₀ (by norm_num) (by norm_num)

end Sys2Proof.Machine
end

section
/-! PROOFS. A rendering far from overflow completes (R122 to R126, R131, R187): every sample finds a finite position, a
table entry and a finite product, and its output is a 16-bit sample. -/

namespace Sys2Proof.Machine

/-! ### the gain and the scaled sample -/

/-- A product of levels is a level. -/
theorem UnitLevel.fmul {x y : F64} (hx : UnitLevel x) (hy : UnitLevel y) : UnitLevel (Machine.fmul x y) := by
  obtain ⟨hxf, hx0, hx1⟩ := hx
  obtain ⟨hyf, hy0, hy1⟩ := hy
  exact (productsAndQuotientsAreCorrectlyRounded x y hxf hyf).1.1.unitLevel (mul_nonneg hx0 hy0)
    (mul_le_one₀ hx1 hy0 hy1)

/-- The value that an envelope step returns is a level (R35, R110). -/
theorem OpOk.unitLevel_envAdvance {o : Operator} (ho : OpOk o) : UnitLevel (Machine.envAdvance o).1 := by
  obtain ⟨-, ha⟩ := ho.cfg.attack
  obtain ⟨-, hd⟩ := ho.cfg.decay
  rcases envAdvance_cases o with ⟨-, hr⟩ | ⟨hn, hle, hr⟩ | ⟨-, hlt, hpos, hle, hr⟩ | ⟨-, -, -, hr⟩ <;> rw [hr]
  · exact unitLevel_posZero
  · exact unitLevel_attackLevel (ho.envN_range hn).1 hle (by omega)
  · exact unitLevel_decayLevel hlt hpos hle (by omega)
  · exact unitLevel_posZero

theorem OpOk.unitLevel_gain {o : Operator} (ho : OpOk o) (hvol : UnitLevel o.noteVol) :
    UnitLevel (gain o (Machine.envAdvance o).1) :=
  (hvol.fmul ho.cfg.volume).fmul ho.unitLevel_envAdvance

/-- A signed 16-bit integer (R120). -/
def IsSample (y : Int) : Prop := -32768 ≤ y ∧ y ≤ 32767

/-- A table entry scaled by a level stays in the sample range, whose ends are binary64 values (R124). -/
theorem fmul_level_range {w : Int} (hw : IsSample w) {q : F64} (hq : UnitLevel q) :
    isFinite (fmul (f64 w) q) = true ∧ -32768 ≤ toRat (fmul (f64 w) q) ∧ toRat (fmul (f64 w) q) ≤ 32767 := by
  obtain ⟨hw0, hw1⟩ := hw
  obtain ⟨hqf, hq0, hq1⟩ := hq
  obtain ⟨hwf, hwv⟩ := integerConversionIsExact w (abs_lt.mpr (by omega))
  obtain ⟨hminf, hminv⟩ := integerConversionIsExact (-32768) (by norm_num)
  obtain ⟨hmaxf, hmaxv⟩ := integerConversionIsExact 32767 (by norm_num)
  have hround := (productsAndQuotientsAreCorrectlyRounded (f64 w) q hwf hqf).1.1
  rw [hwv] at hround
  have hlow : ((-32768 : ℤ) : ℚ) ≤ w * toRat q := by
    have : ((-32768 : ℤ) : ℚ) ≤ w := mod_cast hw0
    push_cast at this ⊢
    nlinarith
  have hhigh : w * toRat q ≤ ((32767 : ℤ) : ℚ) := by
    have : (w : ℚ) ≤ ((32767 : ℤ) : ℚ) := mod_cast hw1
    push_cast at this ⊢
    nlinarith
  have hsmall : |w * toRat q| < 2 ^ 1024 - 2 ^ 970 := by
    push_cast at hlow hhigh
    exact lt_overflowThreshold (abs_lt.mpr ⟨by linarith, by linarith⟩)
  have hge := hround.ge_of_ge hsmall hminf (hminv.trans_le hlow)
  have hle := hround.le_of_le hsmall hmaxf (hhigh.trans_eq hmaxv.symm)
  rw [hminv] at hge
  rw [hmaxv] at hle
  rw [RoundedTo, if_pos hsmall] at hround
  exact ⟨hround.1, mod_cast hge, mod_cast hle⟩

/-- A value in the sample range truncates to a sample: trunc moves it by less than 1 (R12). -/
theorem trunc_isSample {x : F64} (hx : isFinite x = true) (h0 : -32768 ≤ toRat x) (h1 : toRat x ≤ 32767) :
    ∃ y, trunc x = some y ∧ IsSample y := by
  obtain ⟨y, hy, -, hnear, -⟩ := truncationIsTowardZero x hx
  obtain ⟨hnear0, hnear1⟩ := abs_lt.mp hnear
  have hlow : -32769 < y := by exact_mod_cast (by linarith : (-32769 : ℚ) < y)
  have hhigh : y < 32768 := by exact_mod_cast (by linarith : (y : ℚ) < 32768)
  exact ⟨y, hy, by omega, by omega⟩

/-! ### one sample -/

/-- The shared registers of a legal record that lists its L entries (R8, R186, log 12). -/
structure RecordOk (g : GlobalConfig) : Prop where
  shared : SharedOk g
  table : g.wtLen = g.wt.length

/-- Every position of the table holds a sample (R8, R61). -/
theorem RecordOk.tableSample {g : GlobalConfig} (hg : RecordOk g) (idx : Int) :
    ∃ w, Machine.tableSample g idx = some w ∧ IsSample w := by
  obtain ⟨hpos, -⟩ := hg.shared.wtLen
  obtain ⟨hlt, hread⟩ := tableSample_eq idx hpos hg.table
  rw [List.getElem?_eq_getElem hlt] at hread
  refine ⟨_, hread, hg.shared.wt _ ?_⟩
  have htake : g.wt.take g.wtLen.toNat = g.wt := List.take_of_length_le (by
    rw [hg.table, Int.toNat_natCast])
  rw [htake]
  exact List.getElem_mem hlt

/-- An operator that can render, with PHASE at most k units of 2^924 and an increment of at most one. -/
structure CanRender (g : GlobalConfig) (k : ℕ) (o : Operator) : Prop where
  ok : OpOk o
  noteVol : UnitLevel o.noteVol
  inc : WithinUnits 1 (phaseInc g o)
  phase : WithinUnits k o.phase

/-- One sample's writes take PHASE one unit further at most. -/
theorem CanRender.sampleStep {g : GlobalConfig} {k : ℕ} {r : OpRef} {m y : Int} {o o' : Operator}
    (h : CanRender g k o) (hk : k + 1 < 2 ^ 53) (hstep : sampleStep g r m o = .done (y, o')) :
    CanRender g (k + 1) o' := by
  obtain ⟨-, hpitch, hvol, -⟩ := sampleStep_frame hstep
  have hinc : phaseInc g o' = phaseInc g o := by rw [phaseInc, phaseInc, hpitch]
  have hphase : o'.phase = fadd o.phase (phaseInc g o) := by
    rw [sampleStep_advanceOp hstep] at hinc ⊢
    rw [← hinc, advanceOp, advancePhase_phase, envAdvance_phase]
    rfl
  exact ⟨h.ok.sampleStep hstep, hvol ▸ h.noteVol, hinc ▸ h.inc, hphase ▸ h.phase.fadd h.inc hk⟩

/-- The sample itself: its position is finite, so that it is read and scaled (R122 to R124). -/
theorem CanRender.exists_sample {g : GlobalConfig} (hg : RecordOk g) {k : ℕ} {m : Int} {o : Operator}
    (h : CanRender g k o) (hk : k + 1 < 2 ^ 53) (hm : IsSample m) (r : OpRef) :
    ∃ y o', Machine.sampleStep g r m o = .done (y, o') ∧ IsSample y := by
  have hpos : isFinite (readPosition g m o) = true := (h.phase.fadd (withinUnits_phaseOffset hg.shared hm) hk).finite
  obtain ⟨idx, hidx, -⟩ := indexRoundingIsToNearest g.idxTie _ hpos
  obtain ⟨w, hw, hwrange⟩ := hg.tableSample idx
  obtain ⟨hfin, hlow, hhigh⟩ := fmul_level_range hwrange (h.ok.unitLevel_gain h.noteVol)
  obtain ⟨y, hy, hyrange⟩ := trunc_isSample hfin hlow hhigh
  have hlisted : g.idxTie.isListed = true := (idxTie_isListed_iff _).mpr hg.shared.idxTie
  exact ⟨y, _, sampleStep_eq_done.mpr ⟨idx, w, hidx, hlisted, hw, hy, rfl⟩, hyrange⟩

/-! ### one operator -/

theorem CanRender.renderSamples {g : GlobalConfig} (hg : RecordOk g) {r : OpRef} {m : Buffer} :
    ∀ {k t : ℕ} {o : Operator}, CanRender g k o → k + m.length < 2 ^ 53 → InSampleRange m →
      ∃ out o', Machine.renderSamples g r ⟨[], [], []⟩ t m o = .done (out, o') ∧ InSampleRange out := by
  induction m with
  | nil => exact fun _ _ _ => ⟨[], _, rfl, by simp [InSampleRange]⟩
  | cons x xs ih =>
    intro k t o h hk hm
    obtain ⟨hx, hxs⟩ := List.forall_mem_cons.mp hm
    rw [List.length_cons] at hk
    obtain ⟨y, o1, hstep, hy⟩ := h.exists_sample hg (by omega) hx r
    obtain ⟨ys, o', hrest, hys⟩ := ih (t := t + 1) (h.sampleStep (by omega) hstep) (by omega) hxs
    exact ⟨y :: ys, o', renderSamples_cons_eq_done.mpr ⟨y, o1, ys, hstep, hrest, rfl⟩,
      List.forall_mem_cons.mpr ⟨hy, hys⟩⟩

/-- A modulator or output buffer of a PULL of F frames (R102, R120). -/
structure BufferOk (f : ℕ) (b : Buffer) : Prop where
  length : b.length = f
  range : InSampleRange b

/-- OP_RENDER completes for every legal frame count (R101, R126). -/
theorem CanRender.opRender {g : GlobalConfig} (hg : RecordOk g) {f : ℕ} (hf : f < 2 ^ 24) {m : Buffer}
    (hm : BufferOk f m) {o : Operator} (h : CanRender g 1 o) (r : OpRef) :
    ∃ out o', Machine.opRender ⟨g, []⟩ r m o = .done (out, o') ∧ BufferOk f out := by
  obtain ⟨hlen, hrange⟩ := hm
  obtain ⟨out, o', hr, hout⟩ := h.renderSamples hg (r := r) (t := firstMicroStep m.length r) (by omega) hrange
  exact ⟨out, o', hr, (opRender_length (c := ⟨g, []⟩) hr).trans hlen, hout⟩

end Sys2Proof.Machine
end

section
/-! PROOFS. A PULL that no NOTE_ON overlaps completes from every state in order and far from overflow (R101, R141, R187,
R213). -/

namespace Sys2Proof.Machine

/-! ### one voice -/

theorem bufferOk_silence (f : ℕ) : BufferOk f (silence f) :=
  ⟨silence_length f, fun y hy => by rw [List.eq_of_mem_replicate hy]; norm_num⟩

/-- R15's clamp is one to the sample range. -/
theorem sat16_isSample {satMin : Int} (h : satMin = -32768 ∨ satMin = -32767) (s : Int) :
    IsSample (sat16 satMin s) := by
  unfold IsSample sat16
  omega

theorem BufferOk.satSum2 {g : GlobalConfig} (hg : SharedOk g) {f : ℕ} {a b : Buffer} (ha : BufferOk f a)
    (hb : BufferOk f b) : BufferOk f (Machine.satSum2 g a b) := by
  refine ⟨satSum2_length ha.length hb.length, fun y hy => ?_⟩
  obtain ⟨i, hi, rfl⟩ := List.getElem_of_mem hy
  simp only [Machine.satSum2, List.getElem_zipWith]
  exact sat16_isSample hg.satMin _

theorem renderCarriers_completes {g : GlobalConfig} (hg : RecordOk g) {f : ℕ} (hf : f < 2 ^ 24) {x : Voice}
    (h2 : CanRender g 1 x.op2) (h1 : CanRender g 1 x.op1) {m2 : Buffer} {m1 : Buffer → Buffer} (hm2 : BufferOk f m2)
    (hm1 : ∀ out2, BufferOk f out2 → BufferOk f (m1 out2)) (v : ℕ) (vout : Buffer → Buffer → Buffer) :
    ∃ b y, renderCarriers ⟨g, []⟩ v m2 m1 vout x = .done (b, y) := by
  obtain ⟨out2, o2, hr2, hout2⟩ := h2.opRender hg hf hm2 ⟨v, .op2⟩
  obtain ⟨out1, o1, hr1, -⟩ := h1.opRender hg hf (hm1 out2 hout2) ⟨v, .op1⟩
  exact ⟨_, _, renderCarriers_eq_done.mpr ⟨out2, o2, out1, o1, hr2, hr1, rfl, rfl⟩⟩

/-- Every legal selector names a routing that completes (R142 to R146). -/
theorem routeSelected_completes {g : GlobalConfig} (hg : RecordOk g) {f : ℕ} (hf : f < 2 ^ 24) {x : Voice}
    (h2 : CanRender g 1 x.op2) (h1 : CanRender g 1 x.op1) (halg : x.alg.toNat ≤ 4) {out3 : Buffer}
    (h3 : BufferOk f out3) (v : ℕ) : ∃ b y, routeSelected ⟨g, []⟩ v out3 x = .done (b, y) := by
  have hsilence : BufferOk f (silence out3.length) := by
    rw [h3.length]
    exact bufferOk_silence f
  rcases routeSelected_cases (c := ⟨g, []⟩) (v := v) x hsilence (fun _ _ => BufferOk.satSum2 hg.shared) h3 with
    ⟨hillegal, -⟩ | ⟨m2, m1, vout, hm2, hm1, hr⟩
  · omega
  · rw [hr]
    exact renderCarriers_completes hg hf h2 h1 hm2 hm1 v vout

/-- A voice that VOICE_RENDER completes for: a legal selector, and three operators that can render. -/
structure VoiceOk (g : GlobalConfig) (x : Voice) : Prop where
  alg : x.alg.toNat ≤ 4
  ops : AllOps (CanRender g 1) x

theorem VoiceOk.voiceRender {g : GlobalConfig} (hg : RecordOk g) {f : ℕ} (hf : f < 2 ^ 24) {x : Voice}
    (hx : VoiceOk g x) (v : ℕ) : ∃ b y, Machine.voiceRender ⟨g, []⟩ v f x = .done (b, y) := by
  obtain ⟨out3, o3, h3, hout3⟩ := (hx.ops .op3).opRender hg hf (bufferOk_silence f) ⟨v, .op3⟩
  obtain ⟨b, y, hroute⟩ := routeSelected_completes (x := { x with op3 := o3 }) hg hf (hx.ops .op2) (hx.ops .op1)
    hx.alg hout3 v
  exact ⟨b, y, Rendered.andThen_eq_done.mpr ⟨(out3, o3), h3, hroute⟩⟩

/-! ### the voices and the machine -/

theorem renderVoices_completes {g : GlobalConfig} (hg : RecordOk g) {f : ℕ} (hf : f < 2 ^ 24) {xs : List Voice} :
    ∀ {v : ℕ}, (∀ x ∈ xs, VoiceOk g x) → ∃ bs ys, renderVoices ⟨g, []⟩ f v xs = .done (bs, ys) := by
  induction xs with
  | nil => exact fun _ => ⟨[], [], rfl⟩
  | cons x xs ih =>
    intro v hvoices
    obtain ⟨hx, hxs⟩ := List.forall_mem_cons.mp hvoices
    obtain ⟨b, y, hfirst⟩ := hx.voiceRender hg hf v
    obtain ⟨bs, ys, hrest⟩ := ih (v := v + 1) hxs
    exact ⟨_, _, renderVoices_cons_eq_done.mpr ⟨b, y, bs, ys, hfirst, hrest, rfl, rfl⟩⟩

theorem Legal.recordOk {s : State} (h : Legal s.config) : RecordOk s.shared := by
  obtain ⟨-, -, ⟨-, hlen⟩, -⟩ := (legal_iff s.config).mp h
  exact ⟨h.sharedOk, hlen⟩

/-- A legal machine holds P voices, each with a legal selector (R8, R141, R186). -/
theorem Legal.polyphony_eq {s : State} (h : Legal s.config) : s.polyphony = s.voices.length := by
  obtain ⟨-, -, ⟨hp, -⟩, -⟩ := (legal_iff s.config).mp h
  rw [State.config_shared, State.config_voices, List.length_map] at hp
  unfold State.polyphony
  omega

theorem Legal.alg_le {s : State} (h : Legal s.config) {x : Voice} (hx : x ∈ s.voices) : x.alg.toNat ≤ 4 := by
  obtain ⟨-, halg, ⟨hp, -⟩, -⟩ := (legal_iff s.config).mp h
  rw [AlgOk, List.take_of_length_le (by omega)] at halg
  exact (alg_le_four_iff _).mpr (halg x.config (List.mem_map_of_mem hx))

/-- The voices of a state in order whose operators are far from overflow. -/
theorem InOrder.voiceOk {s : State} (h : InOrder s) (hlevel : InLevel s) (h0 : s.fault = 0#4) {x : Voice}
    (hx : x ∈ s.voices) (hfar : AllOps FarFromOverflow x) : VoiceOk s.shared x := by
  have hlegal := h.legal h0
  refine ⟨hlegal.alg_le hx, fun k => ?_⟩
  obtain ⟨hphase, hphase900, hpitch, hpitch900⟩ := hfar k
  exact ⟨h.opOk h0 x hx k, (hlevel h0 x hx k).noteVol, withinUnits_phaseInc hlegal.sharedOk hpitch hpitch900,
    withinUnits_one hphase hphase900⟩

/-- Where nothing overlaps, a PULL of a legal machine renders (R189). -/
theorem Legal.pullRenders {s : State} (h : Legal s.config) (hnil : (overlapsOf s).1 = []) : PullRenders s where
  listed := (commitMode_isListed_iff _).mpr h.sharedOk.commitMode
  voices := List.ne_nil_of_length_pos (h.polyphony_eq ▸ h.polyphony_le.1)
  polyphony := h.polyphony_eq
  overlaps := by
    rw [hnil]
    exact fun o ho => absurd ho List.not_mem_nil

/-- Settles O56: every voice can render, and the mix of their buffers has F samples. -/
theorem pullCompletes : Obligations.PullCompletes := by
  intro s f horder hlevel h0 hprimed hf1 hfmax hmode hfar
  have hnil := overlapsOf_eq_nil hmode
  have hlegal := horder.legal h0
  have hf : f < 2 ^ 24 := by
    obtain ⟨-, hmax⟩ := hlegal.sharedOk.maxFrames
    omega
  obtain ⟨bs, ys, hdone⟩ := renderVoices_completes (v := 0) hlegal.recordOk hf
    fun x hx => horder.voiceOk hlevel h0 hx (hfar x hx)
  obtain ⟨-, hlength, -⟩ := renderVoices_voiceRender hdone
  have hexec : execPull f s = endPull f s (.done (bs, ys)) := by
    rw [execPull_of_framesLegal h0 hprimed ((framesLegal_iff _ _).mpr ⟨hf1, hfmax⟩),
      renderPull_eq_endPull (hlegal.pullRenders hnil), pullContext, hnil, hdone]
  exact ⟨_, _, hexec, h0, rfl, by rw [toSamples, List.length_map, mix_length hlength]⟩

end Sys2Proof.Machine
end

section
/-! PROOFS. The envelope (R110 to R113, R127): each branch of a step, the sequence from ENV_N = 0 in closed form, and its
strict rise and fall, since neighbouring exact values lie at least 2^-32 apart and rounding moves each by 2^-52 at most. -/

namespace Sys2Proof.Machine

/-! ### one step -/

/-- R110 in the terminal state. -/
theorem envAdvance_of_terminal {o : Operator} (hn : o.envN.toInt = -1) : envAdvance o = (F64.posZero, o) := by
  simp only [envAdvance, hn, if_true]

/-- R110 on the attack ramp and at the peak. -/
theorem envAdvance_of_attack {o : Operator} (hn : o.envN.toInt ≠ -1) (hle : o.envN.toInt ≤ o.cfg.attack) :
    envAdvance o = envWrite (o.envN.toInt + 1) (attackLevel o.cfg.attack o.envN.toInt) o := by
  simp only [envAdvance, hn, hle, if_true, if_false]

/-- R110 on the decay ramp. -/
theorem envAdvance_of_decay {o : Operator} (hn : o.envN.toInt ≠ -1) (hgt : ¬o.envN.toInt ≤ o.cfg.attack)
    (hdecay : 0 < o.cfg.decay ∧ o.envN.toInt - o.cfg.attack ≤ o.cfg.decay) :
    envAdvance o = envWrite (o.envN.toInt + 1) (decayLevel o.cfg.attack o.cfg.decay o.envN.toInt) o := by
  simp only [envAdvance, hn, hgt, hdecay, and_self, if_true, if_false]

/-- R110 past the decay ramp: the step into the terminal state. -/
theorem envAdvance_of_end {o : Operator} (hn : o.envN.toInt ≠ -1) (hgt : ¬o.envN.toInt ≤ o.cfg.attack)
    (hend : ¬(0 < o.cfg.decay ∧ o.envN.toInt - o.cfg.attack ≤ o.cfg.decay)) :
    envAdvance o = envWrite (-1) F64.posZero o := by
  simp only [envAdvance, hn, hgt, hend, if_false]

/-- Settles O30, one branch of R110 each. -/
theorem envelopeStepFollowsItsBranches : Obligations.EnvelopeStepFollowsItsBranches := by
  rintro o n a d rfl rfl rfl
  exact ⟨envAdvance_of_terminal, envAdvance_of_attack,
    fun hn hgt hpos hle => envAdvance_of_decay hn hgt ⟨hpos, hle⟩, envAdvance_of_end⟩

/-- Settles O33, by the two cases of END_OF_BUFFER. -/
theorem endOfBufferRetriggersTheEnvelope : Obligations.EndOfBufferRetriggersTheEnvelope := by
  intro o
  refine ⟨rfl, fun hset => ?_, fun hclear => ?_⟩
  · rcases endOfBuffer_cases o with ⟨-, hr⟩ | ⟨hclear, -⟩
    · exact hr
    · exact absurd (hset.symm.trans hclear) (by decide)
  · rcases endOfBuffer_cases o with ⟨hset, -⟩ | ⟨-, hr⟩
    · exact absurd (hset.symm.trans hclear) (by decide)
    · exact hr

/-! ### the level and the counter -/

/-- ATTACK and DECAY in their ranges (R186), the part of a legal record that the envelope reads. -/
structure RampsOk (c : OpConfig) : Prop where
  attack : 0 ≤ c.attack ∧ c.attack < 2 ^ 32
  decay : 0 ≤ c.decay ∧ c.decay < 2 ^ 32

/-- The level of a counter outside the terminal state (R110). -/
def envLevel (a d n : Int) : F64 :=
  if n ≤ a then attackLevel a n
  else if 0 < d ∧ n - a ≤ d then decayLevel a d n
  else F64.posZero

theorem envLevel_of_attack {a n : Int} (d : Int) (h : n ≤ a) : envLevel a d n = attackLevel a n :=
  if_pos h

theorem envLevel_of_decay {a d n : Int} (hgt : a < n) (hle : n ≤ a + d) : envLevel a d n = decayLevel a d n := by
  rw [envLevel, if_neg hgt.not_ge, if_pos (by omega)]

theorem envLevel_of_end {a d n : Int} (hgt : a < n) (hend : a + d < n) : envLevel a d n = F64.posZero := by
  rw [envLevel, if_neg hgt.not_ge, if_neg (by omega)]

/-- What an envelope step returns (R110). -/
theorem envAdvance_fst (o : Operator) : (envAdvance o).1 =
    if o.envN.toInt = -1 then F64.posZero else envLevel o.cfg.attack o.cfg.decay o.envN.toInt := by
  rcases envAdvance_cases o with ⟨hn, hr⟩ | ⟨hn, hle, hr⟩ | ⟨hn, hgt, -, hle, hr⟩ | ⟨hn, hgt, hend, hr⟩
  · rw [hr, if_pos hn]
  · rw [hr, if_neg hn, envLevel_of_attack _ hle]
    rfl
  · rw [hr, if_neg hn, envLevel_of_decay hgt (by omega)]
    rfl
  · rw [hr, if_neg hn, envLevel_of_end hgt (by omega)]
    rfl

/-- Where an envelope step takes the counter (R110). -/
theorem envAdvance_envN {o : Operator} (hc : RampsOk o.cfg) (h : -1 ≤ o.envN.toInt) :
    (envAdvance o).2.envN.toInt =
      if o.envN.toInt ≠ -1 ∧ o.envN.toInt ≤ o.cfg.attack + o.cfg.decay then o.envN.toInt + 1 else -1 := by
  obtain ⟨⟨ha0, ha⟩, hd0, hd⟩ := hc
  rcases envAdvance_cases o with ⟨hn, hr⟩ | ⟨hn, hle, hr⟩ | ⟨hn, hgt, -, hle, hr⟩ | ⟨hn, hgt, hend, hr⟩
  · rw [hr, if_neg (by omega), hn]
  · rw [hr, if_pos (by omega)]
    exact toInt_toEnvN (by omega) (by omega)
  · rw [hr, if_pos (by omega)]
    exact toInt_toEnvN (by omega) (by omega)
  · rw [hr, if_neg (by omega)]
    exact toInt_toEnvN (by omega) (by omega)

@[simp] theorem envAfter_cfg (o : Operator) (j : Nat) : (envAfter o j).cfg = o.cfg := by
  rw [envAfter_frame o j]

/-- The counter before call number j of the sequence from ENV_N = 0 (R112). -/
theorem envAfter_envN {o : Operator} (hc : RampsOk o.cfg) (h0 : o.envN = 0#34) (j : Nat) :
    (envAfter o j).envN.toInt = if (j : Int) ≤ o.cfg.attack + o.cfg.decay + 1 then (j : Int) else -1 := by
  have ha0 := hc.attack.1
  have hd0 := hc.decay.1
  induction j with
  | zero =>
    rw [envAfter, h0, if_pos (by omega)]
    rfl
  | succ j ih =>
    have hcfg : RampsOk (envAfter o j).cfg := by rwa [envAfter_cfg]
    rw [envAfter, envAdvance_envN hcfg (by rw [ih]; split_ifs <;> omega), ih, envAfter_cfg]
    split_ifs <;> omega

/-- Call number j of the sequence from ENV_N = 0 returns the level of counter j (R112). -/
theorem envAfter_level {o : Operator} (hc : RampsOk o.cfg) (h0 : o.envN = 0#34) (j : Nat) :
    (envAdvance (envAfter o j)).1 = envLevel o.cfg.attack o.cfg.decay j := by
  have ha0 := hc.attack.1
  have hd0 := hc.decay.1
  rw [envAdvance_fst, envAfter_envN hc h0, envAfter_cfg]
  by_cases hj : (j : Int) ≤ o.cfg.attack + o.cfg.decay + 1
  · rw [if_pos hj, if_neg (by omega)]
  · rw [if_neg hj, if_pos rfl, envLevel_of_end (by omega) (by omega)]

/-! ### rounding -/

/-- Half a unit of the last place of 1: rounding moves a value of [0, 1] by no more, since some binary64 value is that
near. -/
theorem RoundedTo.abs_sub_le {e : ℚ} {r : F64} (h : RoundedTo e r) (h0 : 0 ≤ e) (h1 : e ≤ 1) :
    |toRat r - e| ≤ 2 ^ (-53 : ℤ) := by
  have hlt := abs_lt_overflowThreshold h0 h1
  rw [RoundedTo, if_pos hlt] at h
  obtain ⟨-, hnear⟩ := h
  rcases h0.eq_or_lt with rfl | hpos
  · refine ((hnear F64.posZero (by decide)).1).trans ?_
    rw [toRat_posZero, sub_self, abs_zero]
    positivity
  · have hn : 0 < e.num.natAbs := Int.natAbs_pos.mpr (Rat.num_pos.mpr hpos).ne'
    have hval : (e.num.natAbs : ℚ) / e.den * 2 ^ (0 : ℤ) = e := by
      rw [Nat.cast_natAbs, abs_of_pos (Rat.num_pos.mpr hpos), zpow_zero, mul_one, Rat.num_div_den]
    have hround := roundedTo_roundToF64 false hn e.den_pos 0
    rw [hval, signFactor_false, one_mul, RoundedTo, if_pos hlt] at hround
    have hdist := abs_toRat_roundToF64_sub_le hn e.den_pos 0 (hval.trans_le h1)
    rw [hval] at hdist
    exact ((hnear _ hround.1).1).trans hdist

/-- A quotient of integers in [0, 1] is n / d to within 2^-53. -/
theorem abs_fdiv_f64_sub_le {n d : ℤ} (h0 : 0 ≤ n) (hnd : n ≤ d) (hd0 : 0 < d) (hd : d < 2 ^ 53) :
    |toRat (fdiv (f64 n) (f64 d)) - (n : ℚ) / d| ≤ 2 ^ (-53 : ℤ) := by
  have hd' : (0 : ℚ) < d := mod_cast hd0
  exact (roundedTo_fdiv_f64 (abs_lt.mpr (by omega)) (abs_lt.mpr (by omega)) hd0.ne').abs_sub_le
    (div_nonneg (mod_cast h0) hd'.le) ((div_le_one hd').mpr (mod_cast hnd))

/-- A level taken from 1.0 is the exact difference to within 2^-53. -/
theorem UnitLevel.abs_fsub_one_sub_le {q : F64} (h : UnitLevel q) :
    |toRat (fsub F64.one q) - (1 - toRat q)| ≤ 2 ^ (-53 : ℤ) := by
  obtain ⟨hfin, h0, h1⟩ := h
  obtain ⟨-, hround, -⟩ := additionIsCorrectlyRounded F64.one q (by decide) hfin
  rw [toRat_one] at hround
  exact hround.abs_sub_le (by linarith) (by linarith)

/-- An exact result that is the value of a binary64 number other than zero is that number. -/
theorem RoundedTo.eq_of_toRat {r z : F64} (h : RoundedTo (toRat z) r) (hz : isFinite z = true)
    (hlt : |toRat z| < 2 ^ 1024 - 2 ^ 970) (h0 : toRat z ≠ 0) : r = z :=
  (eq_of_toRat_eq ((h.ge_of_ge hlt hz le_rfl).antisymm (h.le_of_le hlt hz le_rfl)) h0).symm

/-- A quotient of equal integers is exactly 1.0. -/
theorem fdiv_f64_self {d : ℤ} (hd0 : 0 < d) (hd : d < 2 ^ 53) : fdiv (f64 d) (f64 d) = F64.one := by
  have hround := roundedTo_fdiv_f64 (i := d) (abs_lt.mpr (by omega)) (abs_lt.mpr (by omega)) hd0.ne'
  rw [div_self (mod_cast hd0.ne'), ← toRat_one] at hround
  exact hround.eq_of_toRat (by decide) (abs_lt_overflowThreshold (by simp) (by simp)) (by simp)

/-! ### the ends of the ramps, and their distance from the exact ramps -/

/-- The peak is exactly 1.0, with or without an attack ramp. -/
theorem envLevel_peak {a : Int} (d : Int) (ha0 : 0 ≤ a) (ha : a < 2 ^ 32) : envLevel a d a = F64.one := by
  rw [envLevel_of_attack d le_rfl, attackLevel]
  split_ifs with hzero
  · rfl
  · exact fdiv_f64_self (by omega) (by omega)

/-- The decay ramp ends in +0.0. -/
theorem envLevel_bottom {a d : Int} (hd0 : 0 < d) (hd : d < 2 ^ 32) : envLevel a d (a + d) = F64.posZero := by
  rw [envLevel_of_decay (by omega) le_rfl, decayLevel, add_sub_cancel_left, fdiv_f64_self hd0 (by omega)]
  decide +kernel

/-- The attack ramp is n / a to within 2^-52. -/
theorem abs_envLevel_attack_sub_le {a n : Int} (d : Int) (hn0 : 0 ≤ n) (hna : n ≤ a) (ha0 : 0 < a) (ha : a < 2 ^ 32) :
    |toRat (envLevel a d n) - (n : ℚ) / a| ≤ 2 ^ (-52 : ℤ) := by
  rw [envLevel_of_attack d hna, attackLevel, if_neg ha0.ne']
  exact (abs_fdiv_f64_sub_le hn0 hna ha0 (by omega)).trans (by norm_num)

/-- The decay ramp with its peak lies (n - a) / d below 1.0, to within 2^-52 for its two roundings. -/
theorem abs_one_sub_envLevel_decay_sub_le {a d n : Int} (ha0 : 0 ≤ a) (ha : a < 2 ^ 32) (han : a ≤ n) (hle : n ≤ a + d)
    (hd0 : 0 < d) (hd : d < 2 ^ 32) : |1 - toRat (envLevel a d n) - ((n - a : ℤ) : ℚ) / d| ≤ 2 ^ (-52 : ℤ) := by
  rcases han.eq_or_lt with rfl | hgt
  · rw [envLevel_peak d ha0 ha, toRat_one, sub_self, sub_self, Int.cast_zero, zero_div, sub_zero, abs_zero]
    positivity
  · rw [envLevel_of_decay hgt hle, decayLevel]
    have hquot := abs_fdiv_f64_sub_le (n := n - a) (d := d) (by omega) (by omega) hd0 (by omega)
    have hunit := unitLevel_fdiv_f64 (n := n - a) (d := d) (by omega) (by omega) hd0 (by omega)
    have hdiff := hunit.abs_fsub_one_sub_le
    generalize fdiv (f64 (n - a)) (f64 d) = q at hquot hdiff ⊢
    generalize ((n - a : ℤ) : ℚ) / d = v at hquot ⊢
    calc |1 - toRat (fsub F64.one q) - v|
        = |(toRat q - v) - (toRat (fsub F64.one q) - (1 - toRat q))| := by ring_nf
      _ ≤ |toRat q - v| + |toRat (fsub F64.one q) - (1 - toRat q)| := abs_sub _ _
      _ ≤ 2 ^ (-53 : ℤ) + 2 ^ (-53 : ℤ) := add_le_add hquot hdiff
      _ = 2 ^ (-52 : ℤ) := by norm_num

/-- Two values near n / d and (n + 1) / d keep their order: the exact ones lie more than 2^-32 apart. -/
theorem lt_of_abs_sub_div_le {x y : ℚ} {n d : ℤ} (hd0 : 0 < d) (hd : d < 2 ^ 32)
    (hx : |x - (n : ℚ) / d| ≤ 2 ^ (-52 : ℤ)) (hy : |y - ((n + 1 : ℤ) : ℚ) / d| ≤ 2 ^ (-52 : ℤ)) : x < y := by
  have hd' : (0 : ℚ) < d := mod_cast hd0
  have hgap : (2 : ℚ) ^ (-32 : ℤ) < 1 / d := by
    rw [zpow_neg, ← one_div]
    exact one_div_lt_one_div_of_lt hd' (mod_cast hd)
  have hsmall : (2 : ℚ) ^ (-52 : ℤ) + 2 ^ (-52 : ℤ) < 2 ^ (-32 : ℤ) := by norm_num
  rw [Int.cast_add, Int.cast_one, add_div] at hy
  linarith [(abs_le.mp hx).2, (abs_le.mp hy).1]

/-- The level rises with the counter over the attack (R113). -/
theorem envLevel_lt_of_attack {a n : Int} (d : Int) (hn0 : 0 ≤ n) (hna : n < a) (ha : a < 2 ^ 32) :
    toRat (envLevel a d n) < toRat (envLevel a d (n + 1)) :=
  lt_of_abs_sub_div_le (by omega) ha (abs_envLevel_attack_sub_le d hn0 hna.le (by omega) ha)
    (abs_envLevel_attack_sub_le d (by omega) (by omega) (by omega) ha)

/-- The level falls with the counter over the decay (R113). -/
theorem envLevel_lt_of_decay {a d n : Int} (ha0 : 0 ≤ a) (ha : a < 2 ^ 32) (han : a ≤ n) (hle : n < a + d)
    (hd : d < 2 ^ 32) : toRat (envLevel a d (n + 1)) < toRat (envLevel a d n) := by
  have hnow := abs_one_sub_envLevel_decay_sub_le ha0 ha han hle.le (by omega) hd
  have hnext := abs_one_sub_envLevel_decay_sub_le (n := n + 1) ha0 ha (by omega) (by omega) (by omega) hd
  rw [show n + 1 - a = n - a + 1 by omega] at hnext
  linarith [lt_of_abs_sub_div_le (by omega) hd hnow hnext]

/-- The level of a counter is a level (R35). -/
theorem unitLevel_envLevel {a d n : Int} (hn0 : 0 ≤ n) (ha : a < 2 ^ 32) (hd : d < 2 ^ 32) :
    UnitLevel (envLevel a d n) := by
  unfold envLevel
  split_ifs with hattack hdecay
  · exact unitLevel_attackLevel hn0 hattack (by omega)
  · exact unitLevel_decayLevel (by omega) hdecay.1 hdecay.2 (by omega)
  · exact unitLevel_posZero

/-! ### the sequence -/

/-- Settles O31: call number j returns the level of counter j, by the branch that j falls in. -/
theorem envelopeSequenceFromZero : Obligations.EnvelopeSequenceFromZero := by
  intro o j a d h0 ha hd ha32 hd32
  have hc : RampsOk o.cfg := ⟨by omega, by omega⟩
  have hlevel := envAfter_level hc h0 j
  have hcount := envAfter_envN hc h0 (j + 1)
  rw [ha, hd] at hlevel hcount
  refine ⟨?_, fun hj => ?_, fun hj => ?_, fun hj hend => ?_, fun hj hend => ?_⟩
  · rw [← envAfter, hcount]
    split_ifs <;> omega
  · rw [hlevel, envLevel_of_attack _ (by omega), attackLevel, if_neg (by omega)]
  · rw [hlevel, hj, envLevel_peak _ (by omega) (by omega)]
  · rw [hlevel, envLevel_of_decay (by omega) (by omega), decayLevel]
  · rw [hlevel]
    rcases hend.eq_or_lt with rfl | hend
    · exact envLevel_bottom (by omega) (by omega)
    · exact envLevel_of_end (by omega) (by omega)

/-- Settles O32, by the level of counter j. -/
theorem envelopeIsBoundedAndMonotonic : Obligations.EnvelopeIsBoundedAndMonotonic := by
  refine ⟨fun o _ ha _ hd hn => ?_, fun o j h0 ha0 ha hd0 hd => ?_⟩
  · rw [envAdvance_fst]
    split_ifs with hend
    · exact unitLevel_posZero
    · exact unitLevel_envLevel (hn.resolve_left hend).1 ha hd
  · have hc : RampsOk o.cfg := ⟨⟨ha0, ha⟩, hd0, hd⟩
    rw [envAfter_level hc h0, envAfter_level hc h0, Nat.cast_succ]
    exact ⟨fun hj => envLevel_lt_of_attack _ (by omega) hj ha, fun hj hend => envLevel_lt_of_decay ha0 ha hj hend hd,
      fun hend => envLevel_of_end (by omega) hend⟩

end Sys2Proof.Machine
end

section
/-! PROOFS. One sample of OP_RENDER, stage by stage (R121 to R126, R131): the offset of the modulator, the read position,
the table read, the scaled sample, and the loop over a buffer that no NOTE_ON overlaps. -/

namespace Sys2Proof.Machine

/-! ### the phase offset (R121) -/

/-- An exact result that a binary64 value stands for is not moved by rounding. -/
theorem RoundedTo.toRat_eq {e : ℚ} {r z : F64} (h : RoundedTo e r) (hz : isFinite z = true) (hval : toRat z = e)
    (he : |e| < 2 ^ 1024 - 2 ^ 970) : isFinite r = true ∧ toRat r = e := by
  rw [RoundedTo, if_pos he] at h
  obtain ⟨hfin, hnear⟩ := h
  have hdist := (hnear z hz).1
  rw [hval, sub_self, abs_zero] at hdist
  exact ⟨hfin, sub_eq_zero.mp (abs_nonpos_iff.mp hdist)⟩

/-- An integer that f64 converts exactly survives a rounding. -/
theorem RoundedTo.toRat_eq_intCast {i : ℤ} {r : F64} (h : RoundedTo i r) (hi : |i| < 2 ^ 53) :
    isFinite r = true ∧ toRat r = i := by
  obtain ⟨hfin, hval⟩ := integerConversionIsExact i hi
  exact h.toRat_eq hfin hval (lt_overflowThreshold (mod_cast hi))

/-- The exact product of R121 is far below 2^53, so that converting it loses nothing. -/
theorem abs_mul_wtLen_lt {g : GlobalConfig} (h1 : 1 ≤ g.wtLen) (hL : g.wtLen ≤ 2 ^ 24) {m : ℤ} (hm : IsSample m) :
    |m * g.wtLen| < 2 ^ 53 := by
  obtain ⟨hm0, hm1⟩ := hm
  calc |m * g.wtLen| = |m| * |g.wtLen| := abs_mul _ _
    _ ≤ 2 ^ 15 * 2 ^ 24 :=
      mul_le_mul (abs_le.mpr (by omega)) (abs_le.mpr (by omega)) (abs_nonneg _) (by norm_num)
    _ < 2 ^ 53 := by norm_num

theorem roundedTo_phaseOffset {g : GlobalConfig} (h1 : 1 ≤ g.wtLen) (hL : g.wtLen ≤ 2 ^ 24) {m : ℤ}
    (hm : IsSample m) : RoundedTo ((m * g.wtLen : ℤ) / (32767 : ℚ)) (phaseOffset g m) := by
  rw [phaseOffset, fullScale_eq]
  exact roundedTo_fdiv_f64 (abs_mul_wtLen_lt h1 hL hm) (by norm_num) (by norm_num)

/-- A silent modulator moves no position. -/
theorem phaseOffset_zero (g : GlobalConfig) : phaseOffset g 0 = F64.posZero := by
  rw [phaseOffset, zero_mul]
  decide +kernel

/-- Settles O34: the product is exact, so that the quotient is the one rounding, and none where the quotient is L. -/
theorem phaseOffsetIsRoundedOnce : Obligations.PhaseOffsetIsRoundedOnce := by
  intro g m h1 hL hm0 hm1
  have hround := roundedTo_phaseOffset h1 hL ⟨hm0, hm1⟩
  refine ⟨hround, fun hfull => ?_, fun hzero => hzero ▸ phaseOffset_zero g⟩
  have hquot : ((m * g.wtLen : ℤ) : ℚ) / 32767 = g.wtLen := by
    rw [hfull, Int.cast_mul]
    exact mul_div_cancel_left₀ _ (by norm_num)
  rw [hquot] at hround
  exact (hround.toRat_eq_intCast (abs_lt.mpr (by omega))).2

/-! ### the read position and the table read (R122, R123) -/

/-- R122 with the offset written out. -/
theorem readPosition_eq (g : GlobalConfig) (m : Int) (o : Operator) :
    readPosition g m o = fadd o.phase (fdiv (f64 (m * g.wtLen)) (f64 32767)) := by
  rw [readPosition, phaseOffset, fullScale_eq]

/-- R14 gives an index exactly at a finite position. -/
theorem roundIdx_eq_none_iff (tie : IdxTie) (x : F64) : roundIdx tie x = none ↔ isFinite x = false := by
  rw [roundIdx, ← Bool.not_eq_true]
  exact ite_eq_right_iff.trans (by simp)

/-- A sample ends in NONFINITE exactly where its position is not finite (R122). -/
theorem sampleStep_eq_nonfinite_iff {g : GlobalConfig} {r : OpRef} {m : Int} {o : Operator} :
    sampleStep g r m o = .nonfinite r ↔ isFinite (readPosition g m o) = false := by
  rw [← roundIdx_eq_none_iff g.idxTie]
  unfold sampleStep
  cases roundIdx g.idxTie (readPosition g m o) with
  | none => simp
  | some idx =>
    refine iff_of_false (fun h => ?_) (by simp)
    dsimp only at h
    split at h
    · cases h
    split at h
    · cases h
    split at h <;> cases h

/-- The table read modulo L, where there is a table (R123). -/
theorem tableSample_eq_getElem? {g : GlobalConfig} (h1 : 1 ≤ g.wtLen) (idx : Int) :
    tableSample g idx = g.wt[(idx % g.wtLen).toNat]? :=
  if_pos (Int.emod_nonneg idx (by omega))

theorem mem_wt_of_tableSample {g : GlobalConfig} {idx w : Int} (h : tableSample g idx = some w) : w ∈ g.wt := by
  unfold tableSample memRead at h
  split_ifs at h
  exact List.mem_of_getElem? h

/-- The writes of one sample with R125's increment written out. -/
theorem advanceOp_eq (g : GlobalConfig) (o : Operator) :
    advanceOp g o = { (envAdvance o).2 with
      phase := fadd o.phase (fdiv (fmul (f64 g.wtLen) o.pitch) (f64 g.sampleRate)) } := by
  rw [advanceOp, envAdvance_frame]
  rfl

/-! ### the scaled sample (R124, R131) -/

/-- A value that is an integer truncates to it. -/
theorem trunc_of_toRat_eq {x : F64} (hx : isFinite x = true) {i : ℤ} (h : toRat x = i) : trunc x = some i := by
  obtain ⟨j, hj, -, hnear, -⟩ := truncationIsTowardZero x hx
  have hij : |i - j| < 1 := by
    rw [h] at hnear
    exact_mod_cast hnear
  rw [hj, sub_eq_zero.mp (Int.abs_lt_one_iff.mp hij)]

/-- A gain of 1.0 passes a sample unchanged (R131). -/
theorem trunc_fmul_one {w : Int} (hw : IsSample w) : trunc (fmul (f64 w) F64.one) = some w := by
  obtain ⟨hw0, hw1⟩ := hw
  have hsmall : |w| < 2 ^ 53 := abs_lt.mpr (by omega)
  obtain ⟨hwf, hwv⟩ := integerConversionIsExact w hsmall
  have hround := (productsAndQuotientsAreCorrectlyRounded (f64 w) F64.one hwf (by decide)).1.1
  rw [hwv, toRat_one, mul_one] at hround
  obtain ⟨hfin, hval⟩ := hround.toRat_eq_intCast hsmall
  exact trunc_of_toRat_eq hfin hval

/-- R131: a done sample is a table entry scaled by a level, and at the level 1.0 the entry itself. -/
theorem OpOk.sampleStep_isSample {g : GlobalConfig} {r : OpRef} {m y : Int} {o o' : Operator} (ho : OpOk o)
    (hvol : UnitLevel o.noteVol) (hwt : InSampleRange g.wt) (hstep : Machine.sampleStep g r m o = .done (y, o')) :
    IsSample y ∧ (gain o (Machine.envAdvance o).1 = F64.one →
      ∃ idx, roundIdx g.idxTie (readPosition g m o) = some idx ∧ tableSample g idx = some y) := by
  obtain ⟨idx, w, hidx, -, hw, hy, -⟩ := sampleStep_eq_done.mp hstep
  have hwrange : IsSample w := hwt w (mem_wt_of_tableSample hw)
  constructor
  · obtain ⟨hfin, hlow, hhigh⟩ := fmul_level_range hwrange (ho.unitLevel_gain hvol)
    obtain ⟨z, hz, hzrange⟩ := trunc_isSample hfin hlow hhigh
    obtain rfl : z = y := Option.some.inj (hz.symm.trans hy)
    exact hzrange
  · intro hgain
    rw [hgain, trunc_fmul_one hwrange] at hy
    exact ⟨idx, hidx, hw.trans hy⟩

/-! ### the loop (R126) -/

/-- With no write pending, a rendering does not read the number of its micro-step (R71). -/
theorem renderSamples_noWrites_time (g : GlobalConfig) (r : OpRef) {m : Buffer} :
    ∀ (t t' : Nat) (o : Operator), renderSamples g r ⟨[], [], []⟩ t m o = renderSamples g r ⟨[], [], []⟩ t' m o := by
  induction m with
  | nil => exact fun _ _ _ => rfl
  | cons x xs ih =>
    intro t t' o
    simp only [renderSamples, landDue_none]
    congr 1
    funext a
    rw [ih (t + 1) (t' + 1)]

/-- OP_RENDER of an empty modulator is END_OF_BUFFER. -/
theorem opRender_nil (g : GlobalConfig) (r : OpRef) (o : Operator) :
    opRender ⟨g, []⟩ r [] o = .done ([], endOfBuffer o) := by
  simp only [opRender, pendingFor_none, renderSamples, landDue_none, landAll_none]

/-- OP_RENDER that no NOTE_ON overlaps is one sample and then OP_RENDER of the samples after it. -/
theorem opRender_cons_eq_done {g : GlobalConfig} {r : OpRef} {m : Int} {ms out : Buffer} {o o' : Operator} :
    opRender ⟨g, []⟩ r (m :: ms) o = .done (out, o') ↔
      ∃ y o1 ys, sampleStep g r m o = .done (y, o1) ∧ opRender ⟨g, []⟩ r ms o1 = .done (ys, o') ∧ out = y :: ys := by
  unfold opRender
  simp only [pendingFor_none]
  rw [renderSamples_cons_eq_done, landDue_none]
  simp only [renderSamples_noWrites_time g r (firstMicroStep (m :: ms).length r + 1) (firstMicroStep ms.length r)]

/-- Settles O36, one stage after the other. -/
theorem operatorOutputIsInRange : Obligations.OperatorOutputIsInRange := by
  refine ⟨fun g r m o => ?_, fun g r m y o o' h1 hlisted => ?_, fun g r m ms out o o' => ?_,
    fun g r m y o o' hwt hvol hcfg henv hstep => ?_, fun w hw0 hw1 => trunc_fmul_one ⟨hw0, hw1⟩⟩
  · rw [← readPosition_eq]
    exact sampleStep_eq_nonfinite_iff
  · rw [sampleStep_eq_done, ← readPosition_eq, ← advanceOp_eq]
    simp only [hlisted, true_and, tableSample_eq_getElem? h1]
    rfl
  · exact ⟨opRender_nil g r o, opRender_cons_eq_done⟩
  · rw [← readPosition_eq]
    exact OpOk.sampleStep_isSample ⟨hcfg, henv⟩ hvol hwt hstep

end Sys2Proof.Machine
end

section
/-! PROOFS. A silent operator renders zeros (R124, R168, R216): one factor of the gain is a zero, and stays one. -/

namespace Sys2Proof.Machine

/-! ### zeros -/

/-- A zero, of either sign. -/
structure IsZero (q : F64) : Prop where
  finite : isFinite q = true
  value : toRat q = 0

theorem isZero_posZero : IsZero F64.posZero := ⟨by decide, toRat_posZero⟩

theorem RoundedTo.isZero {r : F64} (h : RoundedTo 0 r) : IsZero r := by
  rw [← Int.cast_zero] at h
  obtain ⟨hfin, hval⟩ := h.toRat_eq_intCast (by norm_num)
  exact ⟨hfin, hval.trans Int.cast_zero⟩

/-- A zero times a finite value. -/
theorem IsZero.fmul_left {x y : F64} (hx : IsZero x) (hy : isFinite y = true) : IsZero (fmul x y) := by
  have hround := (productsAndQuotientsAreCorrectlyRounded x y hx.finite hy).1.1
  rw [hx.value, zero_mul] at hround
  exact hround.isZero

/-- A finite value times a zero. -/
theorem IsZero.fmul_right {x y : F64} (hx : isFinite x = true) (hy : IsZero y) : IsZero (fmul x y) := by
  have hround := (productsAndQuotientsAreCorrectlyRounded x y hx hy.finite).1.1
  rw [hy.value, mul_zero] at hround
  exact hround.isZero

/-- A value that is not finite times a zero is a NaN (R11). -/
theorem fmul_of_not_finite_of_isZero {x y : F64} (hx : isFinite x = false) (hy : IsZero y) :
    fmul x y = quietNaN x y := by
  have hsig : significand y = 0 := (toRat_eq_zero_iff y).mp hy.value
  cases hnan : isNaN x with
  | true => simp [fmul, hnan]
  | false =>
    have hinf : isInf x = true := (isFinite_or_isInf hnan).resolve_left (by simp [hx])
    simp [fmul, hnan, hinf, isNaN_of_isFinite hy.finite, hy.finite, hsig]

/-- What a gain of zero leaves of any table entry, where it truncates at all. -/
theorem eq_zero_of_trunc_fmul {x q : F64} (hq : IsZero q) {y : Int} (h : trunc (fmul x q) = some y) : y = 0 := by
  cases hx : isFinite x with
  | true =>
    have hzero := IsZero.fmul_right hx hq
    rw [trunc_of_toRat_eq hzero.finite (i := 0) (hzero.value.trans Int.cast_zero.symm)] at h
    exact (Option.some.inj h).symm
  | false =>
    rw [fmul_of_not_finite_of_isZero hx hq, trunc, isFinite_quietNaN] at h
    cases h

/-! ### one operator -/

/-- An operator in order with NOTE_VOL = +0.0 or a terminal envelope. -/
structure Silent (o : Operator) : Prop where
  ok : OpOk o
  noteVol : UnitLevel o.noteVol
  silent : o.noteVol = F64.posZero ∨ o.envN.toInt = -1

/-- R124's gain has NOTE_VOL and the envelope's value as factors. -/
theorem Silent.gain_isZero {o : Operator} (h : Silent o) : IsZero (gain o (envAdvance o).1) := by
  obtain ⟨hvolume, -, -⟩ := h.ok.cfg.volume
  rcases h.silent with hvol | hend
  · obtain ⟨henv, -, -⟩ := h.ok.unitLevel_envAdvance
    rw [gain, hvol]
    exact (isZero_posZero.fmul_left hvolume).fmul_left henv
  · obtain ⟨hlevel, -, -⟩ := h.noteVol.fmul h.ok.cfg.volume
    rw [gain, envAdvance_of_terminal hend]
    exact IsZero.fmul_right hlevel isZero_posZero

/-- No sample of a silent operator sounds, and none ends its silence: a terminal envelope stays terminal (R110). -/
theorem Silent.sampleStep {g : GlobalConfig} {r : OpRef} {m y : Int} {o o' : Operator} (h : Silent o)
    (hstep : sampleStep g r m o = .done (y, o')) : y = 0 ∧ Silent o' := by
  obtain ⟨-, -, hvol, -⟩ := sampleStep_frame hstep
  have hok' : OpOk o' := h.ok.sampleStep hstep
  obtain ⟨idx, w, -, -, -, hy, ho'⟩ := sampleStep_eq_done.mp hstep
  refine ⟨eq_zero_of_trunc_fmul h.gain_isZero hy, hok', hvol ▸ h.noteVol, ?_⟩
  rcases h.silent with hzero | hend
  · exact .inl (hvol.trans hzero)
  · refine .inr ?_
    rw [ho', envAdvance_of_terminal hend]
    exact hend

theorem Silent.opRender {g : GlobalConfig} {r : OpRef} {m : Buffer} :
    ∀ {o o' : Operator} {out : Buffer}, Silent o → opRender ⟨g, []⟩ r m o = .done (out, o') → ∀ y ∈ out, y = 0 := by
  induction m with
  | nil =>
    intro o o' out _ hr
    obtain rfl : out = [] := List.length_eq_zero_iff.mp (opRender_length hr)
    simp
  | cons x xs ih =>
    intro o o' out h hr
    obtain ⟨y, o1, ys, hstep, hrest, rfl⟩ := opRender_cons_eq_done.mp hr
    obtain ⟨hy, h1⟩ := h.sampleStep hstep
    exact List.forall_mem_cons.mpr ⟨hy, ih h1 hrest⟩

/-- Settles O37, by induction over the samples. -/
theorem silentOperatorsRenderZeros : Obligations.SilentOperatorsRenderZeros := by
  rintro ⟨g, ovs⟩ r m out o o' hovs hvol hcfg henv hsilent hr
  obtain rfl : ovs = [] := hovs
  exact ⟨opRender_length hr, Silent.opRender ⟨⟨hcfg, henv⟩, hvol, hsilent⟩ hr⟩

end Sys2Proof.Machine
end

section
/-! PROOFS. The PULL that stops at its first read position (R122, R181, R187). -/

namespace Sys2Proof.Machine

/-- A position is not finite where PHASE is not, whatever the modulator (R122). -/
theorem sampleStep_of_phase_not_finite (g : GlobalConfig) (r : OpRef) (m : Int) {o : Operator}
    (h : isFinite o.phase = false) : sampleStep g r m o = .nonfinite r := by
  refine sampleStep_eq_nonfinite_iff.mpr (Bool.eq_false_iff.mpr fun hpos => ?_)
  rw [isFinite_of_isFinite_fadd hpos] at h
  cases h

/-- OP_RENDER of at least one sample stops at the first one. -/
theorem opRender_of_phase_not_finite (g : GlobalConfig) (r : OpRef) (m : Int) (ms : Buffer) {o : Operator}
    (h : isFinite o.phase = false) : opRender ⟨g, []⟩ r (m :: ms) o = .nonfinite r := by
  simp only [opRender, pendingFor_none, renderSamples, landDue_none, sampleStep_of_phase_not_finite g r m h,
    Rendered.andThen_nonfinite]

/-- Operator 3 of the first voice is the first one that a PULL renders (R101, R141). -/
theorem renderVoices_of_phase_not_finite (g : GlobalConfig) {f : Nat} (hf : 1 ≤ f) (v : Nat) {x : Voice}
    (xs : List Voice) (h : isFinite x.op3.phase = false) :
    renderVoices ⟨g, []⟩ f v (x :: xs) = .nonfinite ⟨v, .op3⟩ := by
  obtain ⟨n, rfl⟩ := Nat.exists_eq_add_of_le' hf
  rw [renderVoices, voiceRender, silence, List.replicate_succ, opRender_of_phase_not_finite g _ _ _ h]
  rfl

/-- Settles O14: the PULL passes its checks and ends in NONFINITE at op3 of voice 0. -/
theorem nonfinitePhaseFaultsThePull : Obligations.NonfinitePhaseFaultsThePull := by
  intro s f x xs h0 hprimed hf1 hfmax hmode hpoly hvoices hphase
  have hovs : overlapsOf s = ([], s.rr, s.host) := overlapsOf_of_bufferAtomic hmode
  have hrenders : PullRenders s :=
    ⟨by rw [hmode]; rfl, by simp [hvoices], hpoly, by simp [hovs]⟩
  have hexec : execPull f s = .next (raiseNonfinite ⟨0, .op3⟩ [] s) := by
    rw [execPull_of_framesLegal h0 hprimed ((framesLegal_iff _ _).mpr ⟨hf1, hfmax⟩), renderPull_eq_endPull hrenders,
      pullContext, hovs, hvoices, renderVoices_of_phase_not_finite _ hf1 0 xs hphase, endPull, hovs]
  refine ⟨_, hexec, ?_, rfl, hprimed, rfl, rfl, raiseNonfinite_config _ _ _⟩
  rw [raiseNonfinite_fault, if_pos h0]

end Sys2Proof.Machine
end

section
/-! PROOFS. ALG0 to ALG4 complete on a voice in order and far from overflow (R126, R141 to R146, R187, log 8): each is a
rendering of operators 2 and 1, and differs in the modulators and in the output it makes of theirs. -/

namespace Sys2Proof.Machine

/-- R146's sum of three is clamped to the sample range. -/
theorem BufferOk.satSum3 {g : GlobalConfig} (hg : SharedOk g) {f : ℕ} {a b c : Buffer} (ha : BufferOk f a)
    (hb : BufferOk f b) (hc : BufferOk f c) : BufferOk f (Machine.satSum3 g a b c) := by
  refine ⟨satSum3_length ha.length hb.length hc.length, fun y hy => ?_⟩
  obtain ⟨i, hi, rfl⟩ := List.getElem_of_mem hy
  simp only [Machine.satSum3, List.getElem_zipWith]
  exact sat16_isSample hg.satMin _

/-- ALG0 to ALG4 as instructions: a routing whose modulators and output satisfy P wherever silence, op3's buffer and every
clamped sum do (R142 to R146). -/
theorem exec_eq_routeWith_carriers {P : Buffer → Prop} {i : Instr} {c : RenderContext} {out3 : Buffer}
    (hi : i ∈ [Instr.alg0, Instr.alg1, Instr.alg2, Instr.alg3, Instr.alg4])
    (hsilence : P (silence out3.length)) (hsum2 : ∀ a b, P a → P b → P (satSum2 c.shared a b))
    (hsum3 : ∀ a b d, P a → P b → P d → P (satSum3 c.shared a b d)) (h3 : P out3) :
    ∃ (route : Routing) (m2 : Buffer) (m1 : Buffer → Buffer) (vout : Buffer → Buffer → Buffer),
      (∀ s, exec i s = routeWith route s) ∧ P m2 ∧ (∀ out2, P out2 → P (m1 out2)) ∧
      (∀ out1 out2, P out1 → P out2 → P (vout out1 out2)) ∧
      ∀ v x, route c v out3 x = renderCarriers c v m2 m1 vout x := by
  simp only [List.mem_cons, List.not_mem_nil, or_false] at hi
  rcases hi with rfl | rfl | rfl | rfl | rfl
  · exact ⟨routeAlg0, _, _, _, fun _ => rfl, h3, fun _ h2 => h2, fun _ _ h1 _ => h1, fun _ _ => rfl⟩
  · exact ⟨routeAlg1, _, _, _, fun _ => rfl, hsilence, fun _ h2 => hsum2 _ _ h3 h2, fun _ _ h1 _ => h1,
      fun _ _ => rfl⟩
  · exact ⟨routeAlg2, _, _, _, fun _ => rfl, h3, fun _ _ => h3, hsum2, fun _ _ => rfl⟩
  · exact ⟨routeAlg3, _, _, _, fun _ => rfl, h3, fun _ _ => hsilence, hsum2, fun _ _ => rfl⟩
  · exact ⟨routeAlg4, _, _, _, fun _ => rfl, hsilence, fun _ _ => hsilence, fun _ _ h1 h2 => hsum3 _ _ _ h1 h2 h3,
      fun _ _ => rfl⟩

/-- A rendering of the carriers that completes: its output and what it leaves of the voice. -/
theorem renderCarriers_bufferOk {g : GlobalConfig} (hg : RecordOk g) {f : ℕ} (hf : f < 2 ^ 24) {x : Voice}
    (h2 : CanRender g 1 x.op2) (h1 : CanRender g 1 x.op1) {m2 : Buffer} {m1 : Buffer → Buffer}
    {vout : Buffer → Buffer → Buffer} (hm2 : BufferOk f m2) (hm1 : ∀ out2, BufferOk f out2 → BufferOk f (m1 out2))
    (hvout : ∀ out1 out2, BufferOk f out1 → BufferOk f out2 → BufferOk f (vout out1 out2)) (v : ℕ) :
    ∃ b, BufferOk f b ∧ renderCarriers ⟨g, []⟩ v m2 m1 vout x =
      .done (b, { x with op1 := pulledOp g f x.op1, op2 := pulledOp g f x.op2 }) := by
  obtain ⟨out2, o2, hr2, hout2⟩ := h2.opRender hg hf hm2 ⟨v, .op2⟩
  obtain ⟨out1, o1, hr1, hout1⟩ := h1.opRender hg hf (hm1 out2 hout2) ⟨v, .op1⟩
  have ho2 : o2 = pulledOp g f x.op2 := hm2.length ▸ opRender_pulledOp hr2
  have ho1 : o1 = pulledOp g f x.op1 := (hm1 out2 hout2).length ▸ opRender_pulledOp hr1
  exact ⟨_, hvout out1 out2 hout1 hout2,
    renderCarriers_eq_done.mpr ⟨out2, o2, out1, o1, hr2, hr1, rfl, by rw [ho1, ho2]⟩⟩

/-- The routing of the voice in the combiner, where it completes (log 8). -/
theorem routeWith_of_done {route : Routing} {s : State} {c : Combiner} {x y : Voice} {b : Buffer} (h0 : s.fault = 0#4)
    (hc : s.combiner = some c) (hx : s.voices[c.voice]? = some x)
    (hdone : route ⟨s.shared, c.overlaps⟩ c.voice c.out3 x = .done (b, y)) :
    routeWith route s = .next
      { s with voices := s.voices.set c.voice y, combiner := some { c with vout := some b } } := by
  simp only [routeWith, hc, if_neg (not_not.mpr h0), hx, hdone]

/-- Settles O49: whatever the routing, its modulators and its output are buffers of samples. -/
theorem everyRoutingCompletes : Obligations.EveryRoutingCompletes := by
  intro s c x i hi horder hlevel h0 hc hovs hx hfar hrange hlen
  have hg := (horder.legal h0).recordOk
  have hok : VoiceOk s.shared x := horder.voiceOk hlevel h0 (List.mem_of_getElem? hx) hfar
  obtain ⟨route, m2, m1, vout, hexec, hm2, hm1, hvout, hroute⟩ :=
    exec_eq_routeWith_carriers (P := BufferOk c.out3.length) (c := ⟨s.shared, []⟩) hi (bufferOk_silence _)
      (fun _ _ => BufferOk.satSum2 hg.shared) (fun _ _ _ => BufferOk.satSum3 hg.shared) ⟨rfl, hrange⟩
  obtain ⟨b, hb, hdone⟩ := renderCarriers_bufferOk hg hlen (hok.ops .op2) (hok.ops .op1) hm2 hm1 hvout c.voice
  refine ⟨b, hb.range, hb.length, (hexec s).trans (routeWith_of_done h0 hc hx ?_)⟩
  rw [hovs, hroute]
  exact hdone

end Sys2Proof.Machine
end

section
/-! PROOFS. What each routing does where its two operator renders complete, and the order of VOICE_RENDER (R140 to R146,
R148, log 8): the five routings share one rule and differ in op2's modulator, in op1's and in the output. -/

namespace Sys2Proof.Machine

/-! ### silence and the clamped sums -/

theorem silence_eq_replicate (f : Nat) : silence f = List.replicate f 0 := rfl

/-- R15, R140. -/
theorem satSum2_eq_zipWith (g : GlobalConfig) (a b : Buffer) :
    satSum2 g a b = List.zipWith (fun p q => min (max (p + q) g.satMin) 32767) a b := rfl

/-- R15, R146: the sum of three is exact, and clamped once. -/
theorem satSum3_getElem? (g : GlobalConfig) {a b d : Buffer} {i : Nat} {p q r : Int} (ha : a[i]? = some p)
    (hb : b[i]? = some q) (hd : d[i]? = some r) :
    (satSum3 g a b d)[i]? = some (min (max (p + q + r) g.satMin) 32767) := by
  simp only [satSum3, List.getElem?_zipWith, ha, hb, hd, sat16]

/-! ### the routings as instructions -/

/-- A routing of the voice in the combiner that renders the carriers with modulators m2 and m1 and makes its output of
theirs by vout, where both renders complete (log 8). -/
theorem routeWith_of_carriers {route : Routing} {m2 : Buffer} {m1 : Buffer → Buffer}
    {vout : Buffer → Buffer → Buffer} {s : State} {c : Combiner} {x : Voice} {out2 out1 : Buffer} {o2 o1 : Operator}
    (hroute : route ⟨s.shared, c.overlaps⟩ c.voice c.out3 x =
      renderCarriers ⟨s.shared, c.overlaps⟩ c.voice m2 m1 vout x)
    (h0 : s.fault = 0#4) (hc : s.combiner = some c) (hx : s.voices[c.voice]? = some x)
    (h2 : opRender ⟨s.shared, c.overlaps⟩ ⟨c.voice, .op2⟩ m2 x.op2 = .done (out2, o2))
    (h1 : opRender ⟨s.shared, c.overlaps⟩ ⟨c.voice, .op1⟩ (m1 out2) x.op1 = .done (out1, o1)) :
    routeWith route s = .next
      { s with
        voices := s.voices.set c.voice { x with op1 := o1, op2 := o2 },
        combiner := some { c with vout := some (vout out1 out2) } } := by
  have hdone := renderCarriers_eq_done (vout := vout).mpr ⟨out2, o2, out1, o1, h2, h1, rfl, rfl⟩
  exact routeWith_of_done h0 hc hx (hroute.trans hdone)

/-- Settles O44: op3's buffer is op2's modulator, op2's output is op1's, and op1's output is the voice's. -/
theorem alg0IsTheSerialChain : Obligations.Alg0IsTheSerialChain := by
  intro s c x out2 out1 o2 o1 h0 hc hx h2 h1
  exact routeWith_of_carriers (route := routeAlg0) (m1 := fun out2 => out2) (vout := fun out1 _ => out1) rfl
    h0 hc hx h2 h1

/-- Settles O45: silence is op2's modulator, the clamped sum of op3 and op2 is op1's, and op1's output is the voice's. -/
theorem alg1SumsOp3AndOp2IntoOp1 : Obligations.Alg1SumsOp3AndOp2IntoOp1 := by
  intro s c x out2 out1 o2 o1 h0 hc hx h2 h1
  rw [← silence_eq_replicate] at h2
  rw [← satSum2_eq_zipWith] at h1
  exact routeWith_of_carriers (route := routeAlg1) (m1 := fun out2 => satSum2 s.shared c.out3 out2)
    (vout := fun out1 _ => out1) rfl h0 hc hx h2 h1

/-- Settles O46: op3's buffer is the modulator of both carriers, and their clamped sum is the voice's output. -/
theorem alg2ModulatesBothCarriers : Obligations.Alg2ModulatesBothCarriers := by
  intro s c x out2 out1 o2 o1 h0 hc hx h2 h1
  rw [← satSum2_eq_zipWith]
  exact routeWith_of_carriers (route := routeAlg2) (m1 := fun _ => c.out3) (vout := satSum2 s.shared) rfl
    h0 hc hx h2 h1

/-- Settles O47: op3's buffer is op2's modulator, silence is op1's, and their clamped sum is the voice's output. -/
theorem alg3ModulatesOp2Only : Obligations.Alg3ModulatesOp2Only := by
  intro s c x out2 out1 o2 o1 h0 hc hx h2 h1
  rw [← silence_eq_replicate] at h1
  rw [← satSum2_eq_zipWith]
  exact routeWith_of_carriers (route := routeAlg3) (m1 := fun _ => silence c.out3.length)
    (vout := satSum2 s.shared) rfl h0 hc hx h2 h1

/-- Settles O48: silence is the modulator of both carriers, and the sum of the three buffers, clamped once, is the voice's
output. -/
theorem alg4AddsAllThree : Obligations.Alg4AddsAllThree := by
  intro s c x out2 out1 o2 o1 h0 hc hx h2 h1
  rw [← silence_eq_replicate] at h2 h1
  have hexec := routeWith_of_carriers (route := routeAlg4) (m1 := fun _ => silence c.out3.length)
    (vout := fun out1 out2 => satSum3 s.shared out1 out2 c.out3) rfl h0 hc hx h2 h1
  exact ⟨satSum3 s.shared out1 out2 c.out3, hexec, fun _ _ _ _ => satSum3_getElem? s.shared⟩

/-! ### VOICE_RENDER -/

/-- R141, R147: the routing of each legal number is the selected one. -/
theorem routeSelected_eq {x : Voice} {route : Routing}
    (h : (x.alg, route) ∈ [(0#3, routeAlg0), (1#3, routeAlg1), (2#3, routeAlg2), (3#3, routeAlg3), (4#3, routeAlg4)])
    (c : RenderContext) (v : Nat) (out3 : Buffer) : routeSelected c v out3 x = route c v out3 x := by
  simp only [List.mem_cons, Prod.mk.injEq, List.not_mem_nil, or_false] at h
  rcases h with ⟨halg, rfl⟩ | ⟨halg, rfl⟩ | ⟨halg, rfl⟩ | ⟨halg, rfl⟩ | ⟨halg, rfl⟩ <;>
    rw [routeSelected, halg] <;> rfl

/-- Settles O50, by the three outcomes of op3's render. -/
theorem voiceRenderStartsWithOp3 : Obligations.VoiceRenderStartsWithOp3 := by
  intro c v f x route hroute
  rw [← silence_eq_replicate]
  unfold voiceRender
  cases opRender c ⟨v, .op3⟩ (silence f) x.op3 with
  | done a => exact routeSelected_eq (x := { x with op3 := a.2 }) hroute c v a.1
  | nonfinite r => rfl
  | stuck e => rfl

end Sys2Proof.Machine
end

section
/-! PROOFS. NOTE_ON: what each of its cases answers, and hits one after another (R164 to R166, R217). -/

namespace Sys2Proof.Machine

/-! ### one NOTE_ON (R164, R165) -/

/-- A faulted FMD takes a NOTE_ON and ignores it (R182). -/
theorem execNoteOn_of_faulted {s : State} (h : s.fault ≠ 0#4) (n v : Nat) :
    execNoteOn n v s = .next (returnNothing s) := by
  rw [execNoteOn, if_pos h]

/-- A miss changes no state (R165). -/
theorem execNoteOn_of_miss {n : Nat} {s : State} (h0 : s.fault = 0#4) (hmiss : noteLookup s.shared n = none) (v : Nat) :
    execNoteOn n v s = .next (returnNothing s) := by
  rw [execNoteOn, if_neg (not_not.mpr h0), hmiss]

/-- A hit needs the voice RR only, whatever the number of voices held. -/
theorem execNoteOn_of_hit_of_voice {n v : Nat} {f : F64} {s : State} {x : Voice} (h0 : s.fault = 0#4)
    (hf : noteLookup s.shared n = some f) (hrr : s.rr.toNat < s.polyphony) (hx : s.voices[s.rr.toNat]? = some x) :
    execNoteOn n v s = .next (afterHit f (velocityLevel v) s.host s) := by
  have hvoice : s.rr.toNat < s.polyphony ∧ s.rr.toNat < s.voices.length :=
    ⟨hrr, (List.getElem?_eq_some_iff.mp hx).1⟩
  rw [execNoteOn, if_neg (not_not.mpr h0), hf]
  exact if_pos hvoice

/-- The nine writes of a NOTE_ON replace the one voice they go to. -/
theorem landNote_eq_set {v : Nat} {vs : List Voice} {x : Voice} (hx : vs[v]? = some x) (p vol : F64) :
    landNote v p vol vs = vs.set v (voiceNoteOn p vol x) := by
  obtain ⟨hv, rfl⟩ := List.getElem?_eq_some_iff.mp hx
  exact List.modify_eq_set_get _ hv

/-- Settles O26, one case of R164 after the other. -/
theorem noteOnStartsTheNoteOnVoiceRR : Obligations.NoteOnStartsTheNoteOnVoiceRR := by
  intro s n v
  refine ⟨fun h => execNoteOn_of_faulted h n v, fun h0 hmiss => execNoteOn_of_miss h0 hmiss v,
    fun f x h0 hf hrr hx => ?_⟩
  calc execNoteOn n v s
      = .next (afterHit f (velocityLevel v) s.host s) := execNoteOn_of_hit_of_voice h0 hf hrr hx
    _ = .next (returnNothing { s with
          voices := s.voices.set s.rr.toNat (voiceNoteOn f (velocityLevel v) x),
          rr := nextRR s.polyphony s.rr }) := by rw [afterHit, landNote_eq_set hx]

/-- Settles O27: under a legal configuration the keys from 128 up miss too (R62, R186). -/
theorem unmappedNotesChangeNothing : Obligations.UnmappedNotesChangeNothing := by
  intro s n v h0 hunmapped
  have hmiss : noteLookup s.shared n = none := by
    rcases hunmapped with hmiss | ⟨hlegal, hn⟩
    · exact hmiss
    · exact hlegal.sharedOk.noteKeys n hn
  exact execNoteOn_of_miss h0 hmiss v

/-! ### hits one after another (R166, R217) -/

/-- The voice that the hit after i others takes, with RR as in s. -/
def hitVoice (s : State) (i : Nat) : Nat := (s.rr.toNat + i) % s.polyphony

theorem hitVoice_zero {s : State} (hrr : s.rr.toNat < s.polyphony) : hitVoice s 0 = s.rr.toNat :=
  Nat.mod_eq_of_lt hrr

/-- Seen from the state after a hit, the hits that follow are one less away. -/
theorem hitVoice_afterHit {s : State} (hp : s.polyphony ≤ 255) (hrr : s.rr.toNat < s.polyphony) (f vol : F64)
    (rest : List HostEvent) (i : Nat) : hitVoice (afterHit f vol rest s) i = hitVoice s (i + 1) :=
  calc ((nextRR s.polyphony s.rr).toNat + i) % s.polyphony
      = ((s.rr.toNat + 1) % s.polyphony + i) % s.polyphony := by rw [nextRR_toNat s.rr (by omega) (by omega)]
    _ = (s.rr.toNat + (i + 1)) % s.polyphony := by rw [Nat.mod_add_mod, Nat.add_assoc, Nat.add_comm 1 i]

/-- A later NOTE_ON overwrites all that an earlier one wrote (R166). -/
theorem voiceNoteOn_comp (p vol p' vol' : F64) : voiceNoteOn p vol ∘ voiceNoteOn p' vol' = voiceNoteOn p vol := rfl

/-- How the hits `notes` lead from s to t: RR counts them, the voices no hit reaches are unchanged, and a voice's last hit
decides its note. -/
structure HitsRotate (s : State) (notes : List (Nat × Nat)) (t : State) : Prop where
  rr : t.rr.toNat = hitVoice s notes.length
  unreached : ∀ j, (∀ i < notes.length, hitVoice s i ≠ j) → t.voices[j]? = s.voices[j]?
  lastHit : ∀ i p f, notes[i]? = some p → noteLookup s.shared p.1 = some f →
    (∀ i', i < i' → i' < notes.length → hitVoice s i' ≠ hitVoice s i) →
    t.voices[hitVoice s i]? = (s.voices[hitVoice s i]?).map (voiceNoteOn f (velocityLevel p.2))

theorem hitsRotate_nil {s : State} (hrr : s.rr.toNat < s.polyphony) : HitsRotate s [] s where
  rr := (hitVoice_zero hrr).symm
  unreached _ _ := rfl
  lastHit i p f hp := by simp at hp

/-- One hit more, ahead of the others. -/
theorem HitsRotate.cons {s t : State} {p : Nat × Nat} {f : F64} {notes : List (Nat × Nat)} (hP : s.polyphony ≤ 255)
    (hrr : s.rr.toNat < s.polyphony) (hf : noteLookup s.shared p.1 = some f)
    (h : HitsRotate (afterHit f (velocityLevel p.2) s.host s) notes t) : HitsRotate s (p :: notes) t := by
  have hnext := hitVoice_afterHit hP hrr f (velocityLevel p.2) s.host
  have hland : ∀ j, (afterHit f (velocityLevel p.2) s.host s).voices[j]? =
      if s.rr.toNat = j then (s.voices[j]?).map (voiceNoteOn f (velocityLevel p.2)) else s.voices[j]? :=
    fun j => landNote_getElem? s.rr.toNat j f (velocityLevel p.2) s.voices
  obtain ⟨hcount, hunreached, hlast⟩ := h
  simp only [hnext] at hcount hunreached hlast
  refine ⟨hcount, fun j hj => ?_, fun i q g hq hg hlater => ?_⟩
  · have hfirst : s.rr.toNat ≠ j := hitVoice_zero hrr ▸ hj 0 (Nat.succ_pos _)
    rw [hunreached j fun i hi => hj (i + 1) (Nat.succ_lt_succ hi), hland, if_neg hfirst]
  · cases i with
    | zero =>
      obtain rfl : p = q := by simpa using hq
      obtain rfl : f = g := Option.some.inj (hf.symm.trans hg)
      rw [hunreached _ fun i hi => hlater (i + 1) (Nat.succ_pos _) (Nat.succ_lt_succ hi), hland,
        if_pos (hitVoice_zero hrr).symm]
    | succ i =>
      have hlater' : ∀ i', i < i' → i' < notes.length → hitVoice s (i' + 1) ≠ hitVoice s (i + 1) :=
        fun i' hi hlen => hlater (i' + 1) (Nat.succ_lt_succ hi) (Nat.succ_lt_succ hlen)
      rw [hlast i q g (by simpa using hq) hg hlater', hland]
      split_ifs
      · rw [Option.map_map, voiceNoteOn_comp]
      · rfl

/-- NOTE_ONs that all hit run to their end and rotate. -/
theorem runInstrs_hits {notes : List (Nat × Nat)} :
    ∀ {s : State}, s.fault = 0#4 → s.rr.toNat < s.polyphony → s.polyphony ≤ 255 → s.polyphony = s.voices.length →
      (∀ p ∈ notes, ∃ f, noteLookup s.shared p.1 = some f) →
      ∃ t, runInstrs (notes.map fun p => .noteOn p.1 p.2) s = .next t ∧ HitsRotate s notes t := by
  induction notes with
  | nil => exact fun _ hrr _ _ _ => ⟨_, rfl, hitsRotate_nil hrr⟩
  | cons p notes ih =>
    intro s h0 hrr hP hlen hhits
    obtain ⟨⟨f, hf⟩, hhits⟩ := List.forall_mem_cons.mp hhits
    have hexec : exec (.noteOn p.1 p.2) s = .next (afterHit f (velocityLevel p.2) s.host s) :=
      execNoteOn_of_hit h0 hf hrr hlen
    obtain ⟨t, hrun, hrotate⟩ := ih (s := afterHit f (velocityLevel p.2) s.host s) h0
      (nextRR_lt (by omega) s.rr) hP (hlen.trans (landNote_length ..).symm) hhits
    refine ⟨t, ?_, hrotate.cons hP hrr hf⟩
    rw [List.map_cons, runInstrs, hexec]
    exact hrun

/-- Settles O28, by induction over the notes: each NOTE_ON hands RR and the voices on to the next. -/
theorem hitsRotateOverTheVoices : Obligations.HitsRotateOverTheVoices := by
  intro s notes h0 hrr hP hlen hhits
  obtain ⟨t, hrun, hcount, hunreached, hlast⟩ := runInstrs_hits h0 hrr hP hlen hhits
  refine ⟨t, hrun, hcount, hunreached, fun i p f x hp hf hlater hx => ?_⟩
  have hy := hlast i p f hp hf hlater
  rw [hitVoice, hx, Option.map_some] at hy
  exact ⟨voiceNoteOn f (velocityLevel p.2) x, hy, rfl, fun k => voiceOp_voiceNoteOn f (velocityLevel p.2) x k⟩

end Sys2Proof.Machine
end

section
/-! PROOFS. The mix: the exact sum of the voices, divided by P and truncated toward zero (R161, R162). -/

namespace Sys2Proof.Machine

theorem sumVoices_cons (f : Nat) (b : Buffer) (bs : List Buffer) :
    sumVoices f (b :: bs) = List.zipWith (· + ·) b (sumVoices f bs) := rfl

/-- The exact sum of the voices at one sample. -/
theorem sumVoices_getElem? {f i : Nat} (hi : i < f) {vouts : List Buffer} (h : ∀ b ∈ vouts, b.length = f) :
    (sumVoices f vouts)[i]? = some (vouts.map fun b => b.getD i 0).sum := by
  induction vouts with
  | nil => exact List.getElem?_replicate_of_lt hi
  | cons b bs ih =>
    obtain ⟨hb, hbs⟩ := List.forall_mem_cons.mp h
    have hbi : b[i]? = some (b.getD i 0) := by
      rw [List.getD_eq_getElem _ _ (hb ▸ hi), List.getElem?_eq_getElem (hb ▸ hi)]
    rw [sumVoices_cons, List.getElem?_zipWith, hbi, ih hbs, List.map_cons, List.sum_cons]

/-- Settles O52: the division sample by sample over the exact sums. -/
theorem mixIsTheTruncatedMean : Obligations.MixIsTheTruncatedMean := by
  intro f vouts h
  refine ⟨mix_length h, fun i hi => ?_⟩
  rw [mix, List.getElem?_map, sumVoices_getElem? hi h]
  rfl

/-- The sum of P samples in range lies in P times the range (R162), also where the buffers differ in length. -/
theorem sumVoices_range {f : Nat} {vouts : List Buffer} (h : ∀ b ∈ vouts, InSampleRange b) :
    ∀ y ∈ sumVoices f vouts, -32768 * (vouts.length : Int) ≤ y ∧ y ≤ 32767 * (vouts.length : Int) := by
  induction vouts with
  | nil =>
    intro y hy
    obtain rfl : y = 0 := List.eq_of_mem_replicate hy
    exact ⟨le_rfl, le_rfl⟩
  | cons b bs ih =>
    obtain ⟨hb, hbs⟩ := List.forall_mem_cons.mp h
    intro y hy
    obtain ⟨i, hi⟩ := List.mem_iff_getElem?.mp hy
    rw [sumVoices_cons] at hi
    obtain ⟨x, z, hx, hz, rfl⟩ := List.getElem?_zipWith_eq_some.mp hi
    have hxr := hb x (List.mem_of_getElem? hx)
    have hzr := ih hbs z (List.mem_of_getElem? hz)
    rw [List.length_cons]
    omega

/-- Truncation toward zero keeps a quotient between bounds on either side of zero (R162). -/
theorem tquot_mem_range {lo hi s : Int} {p : Nat} (hlo : lo ≤ 0) (hhi : 0 ≤ hi) (h : lo * p ≤ s ∧ s ≤ hi * p) :
    lo ≤ tquot s p ∧ tquot s p ≤ hi := by
  unfold tquot
  rcases Nat.eq_zero_or_pos p with rfl | hp
  · rw [Nat.cast_zero, Int.tdiv_zero]
    exact ⟨hlo, hhi⟩
  · have hp' : (0 : Int) < p := Int.natCast_pos.mpr hp
    obtain ⟨hl, hh⟩ := h
    constructor
    · calc lo = (lo * p).tdiv p := (Int.mul_tdiv_cancel lo hp'.ne').symm
        _ ≤ s.tdiv p := Int.tdiv_le_tdiv hp' hl
    · calc s.tdiv p ≤ (hi * p).tdiv p := Int.tdiv_le_tdiv hp' hh
        _ = hi := Int.mul_tdiv_cancel hi hp'.ne'

/-- Settles O53: the sum of P samples lies in P times the range, and the division by P brings it back. -/
theorem mixOutputIsInRange : Obligations.MixOutputIsInRange := by
  intro f vouts h y hy
  obtain ⟨s, hs, rfl⟩ := List.mem_map.mp hy
  exact tquot_mem_range (by decide) (by decide) (sumVoices_range h s hs)

end Sys2Proof.Machine
end

section
/-! PROOFS. The faults of 60_exceptions.md: a faulted FMD is quiescent (R182), the protocol faults (R184), an illegal word
(R185), and the order of the checks on one command word (R189). -/

namespace Sys2Proof.Machine

/-! ### the word that a step takes -/

theorem fetchWord_of_illegal {w : Word} {e : Illegal} (h : decode w = .error e) (rest : List HostEvent) (s : State) :
    fetchWord w rest s = .illegalWord (takeEvent rest s) := by
  rw [fetchWord, h]

/-- An illegal word is fetched and taken as one (R92, R185). -/
theorem step_of_illegalWord {s : State} {w : Word} {l : NoteLanding} {rest : List HostEvent} {e : Illegal}
    (hwait : voiceWaiting s = none) (hhost : s.host = .command w :: rest ∨ s.host = .during w l :: rest)
    (hd : decode w = .error e) : step s = .next (takeIllegal (takeEvent rest s)) := by
  have hfetch : fetch s = .illegalWord (takeEvent rest s) :=
    calc fetch s = fetchEvent s := fetch_of_voiceWaiting_eq_none hwait
      _ = fetchWord w rest s := fetchEvent_of_word hhost
      _ = .illegalWord (takeEvent rest s) := fetchWord_of_illegal hd rest s
  rw [step, hfetch]

/-! ### a faulted FMD is quiescent (R182) -/

/-- Each of the three commands is ignored. -/
theorem exec_command_of_faulted {w : Word} {i : Instr} (hd : decode w = .ok i) {s : State} (h : s.fault ≠ 0#4) :
    exec i s = .next (returnNothing s) := by
  rcases decode_cases hd with rfl | ⟨f, -, rfl⟩ | ⟨n, v, -, -, rfl⟩
  · exact execPrime_of_faulted h
  · exact execPull_of_faulted h f
  · exact execNoteOn_of_faulted h n v

theorem takeIllegal_of_faulted {s : State} (h : s.fault ≠ 0#4) : takeIllegal s = returnNothing s := if_pos h

/-- Whatever the word, legal or not. -/
theorem step_word_of_faulted {s : State} {w : Word} {l : NoteLanding} {rest : List HostEvent} (h : s.fault ≠ 0#4)
    (hhost : s.host = .command w :: rest ∨ s.host = .during w l :: rest) :
    step s = .next (returnNothing (takeEvent rest s)) := by
  have hwait := voiceWaiting_of_fault h
  have htaken : (takeEvent rest s).fault ≠ 0#4 := h
  cases hd : decode w with
  | ok i => exact (stepRunsTheDecodedCommand s w l rest i hwait hd hhost).trans (exec_command_of_faulted hd htaken)
  | error e => rw [step_of_illegalWord hwait hhost hd, takeIllegal_of_faulted htaken]

/-- Settles O10: the word is ignored, no voice waits, and of the other events only reset is more than waiting. -/
theorem faultedMachineIgnoresEveryWord : Obligations.FaultedMachineIgnoresEveryWord := by
  refine ⟨fun s w l rest h hhost => step_word_of_faulted h hhost, fun s t h hstep => ?_⟩
  rcases step_cases hstep with ⟨c, x, i, hwait, -⟩ | ⟨-, -, rfl⟩ | ⟨w, l, rest, -, hhost, -⟩ | ⟨c, rest, -, hhost, -⟩
  · rw [voiceWaiting_of_fault h] at hwait
    cases hwait
  · exact .inl rfl
  · rw [step_word_of_faulted h hhost] at hstep
    injection hstep with hstep
    exact .inl (by rw [← hstep]; rfl)
  · exact .inr ⟨c, rest, hhost⟩

/-! ### illegal words (R185) and the protocol faults (R184) -/

theorem takeIllegal_of_fault_eq_zero {s : State} (h0 : s.fault = 0#4) : takeIllegal s = raiseFault .badEncoding s :=
  if_neg (not_not.mpr h0)

/-- Settles O11: the word is taken, and raising the fault writes nothing but FAULT. -/
theorem illegalWordRaisesBadEncoding : Obligations.IllegalWordRaisesBadEncoding := by
  intro s w l rest e h0 hwait hhost hd
  have htaken : (takeEvent rest s).fault = 0#4 := h0
  rw [step_of_illegalWord hwait hhost hd, takeIllegal_of_fault_eq_zero htaken, raiseFault_of_fault_eq_zero htaken]
  rfl

/-- The frame counts that R184 calls bad. -/
theorem framesLegal_eq_false_iff (g : GlobalConfig) (f : Nat) :
    framesLegal g f = false ↔ f = 0 ∨ g.maxFrames < f := by
  rw [← Bool.not_eq_true, framesLegal_iff]
  omega

/-- Settles O12: each check of PRIME and PULL raises its fault, which writes nothing but FAULT. -/
theorem protocolFaultsChangeOnlyFault : Obligations.ProtocolFaultsChangeOnlyFault := by
  intro s h0
  refine ⟨fun hp f => ?_, fun hp => ?_, fun hp f hf => ?_⟩
  · exact (execPull_of_unprimed h0 hp f).trans (congrArg _ (raiseFault_of_fault_eq_zero h0 .pullBeforePrime))
  · exact (execPrime_of_primed h0 hp).trans (congrArg _ (raiseFault_of_fault_eq_zero h0 .primeTwice))
  · exact (execPull_of_badFrames h0 hp ((framesLegal_eq_false_iff _ f).mpr hf)).trans
      (congrArg _ (raiseFault_of_fault_eq_zero h0 .badFrames))

/-! ### the order of the checks (R189) -/

theorem raiseFault_fault_of_eq_zero {s : State} (h0 : s.fault = 0#4) (code : FaultCode) :
    (raiseFault code s).fault = faultBits code := by
  rw [raiseFault_fault, if_pos h0]

theorem execPrime_fault {s t : State} (h0 : s.fault = 0#4) (h : execPrime s = .next t) :
    t.fault = if s.primed then 5#4 else 0#4 := by
  rcases execPrime_cases h with ⟨hne, -⟩ | ⟨-, hp, rfl⟩ | ⟨-, hp, rfl⟩
  · exact absurd h0 hne
  · rw [hp, raiseFault_fault_of_eq_zero h0]
    rfl
  · rw [hp]
    exact h0

/-- A PULL that renders ends with its mix or in NONFINITE (R187). -/
theorem renderPull_fault {f : Nat} {s t : State} (h0 : s.fault = 0#4) (h : renderPull f s = .next t) :
    t.fault = 0#4 ∨ t.fault = 7#4 := by
  rcases renderPull_cases h with ⟨bs, vs, -, rfl⟩ | ⟨r, -, rfl⟩
  · exact .inl h0
  · exact .inr (raiseFault_fault_of_eq_zero (by exact h0) .nonfinite)

/-- A NOTE_ON raises no fault, whether it hits or misses (R165). -/
theorem execNoteOn_fault {n v : Nat} {s t : State} (h : execNoteOn n v s = .next t) : t.fault = s.fault := by
  rcases execNoteOn_cases h with ⟨-, rfl⟩ | ⟨-, -, rfl⟩ | ⟨f, -, -, -, -, rfl⟩ <;> rfl

/-- What the checks of PULL make of FAULT, the first that applies deciding. -/
theorem execPull_fault {f : Nat} {s t : State} (h0 : s.fault = 0#4) (h : execPull f s = .next t) :
    (s.primed = false → t.fault = 4#4) ∧
    (s.primed = true → (f = 0 ∨ s.shared.maxFrames < f) → t.fault = 6#4) ∧
    (s.primed = true → ¬(f = 0 ∨ s.shared.maxFrames < f) → t.fault = 0#4 ∨ t.fault = 7#4) := by
  rw [← framesLegal_eq_false_iff]
  rcases execPull_cases h with ⟨hne, -⟩ | ⟨-, hp, rfl⟩ | ⟨-, hp, hf, rfl⟩ | ⟨-, hp, hf, hrender⟩
  · exact absurd h0 hne
  · simp [hp, h0, faultBits]
  · simp [hp, hf, h0, faultBits]
  · simp [hp, hf, renderPull_fault h0 hrender]

/-- Settles O13: the word is ignored, illegal, or one of the three commands with its own checks. -/
theorem faultPriorityOrder : Obligations.FaultPriorityOrder := by
  intro s t w rest hwait hhost hstep
  have hexec : ∀ i, decode w = .ok i → exec i (takeEvent rest s) = .next t := fun i hd =>
    (stepRunsTheDecodedCommand s w landAtStart rest i hwait hd (.inl hhost)).symm.trans hstep
  refine ⟨fun h => ?_, fun h0 hd => ?_, fun h0 hd => execPrime_fault (s := takeEvent rest s) h0 (hexec _ hd),
    fun f h0 hd => execPull_fault (s := takeEvent rest s) h0 (hexec _ hd),
    fun n v h0 hd => (execNoteOn_fault (hexec _ hd)).trans h0⟩
  · rw [step_word_of_faulted (l := landAtStart) h (.inl hhost)] at hstep
    injection hstep with hstep
    rw [← hstep]
    rfl
  · obtain ⟨e, hd⟩ := hd
    rw [illegalWordRaisesBadEncoding s w landAtStart rest e h0 hwait (.inl hhost) hd] at hstep
    injection hstep with hstep
    rw [← hstep]

end Sys2Proof.Machine
end

section
/-! PROOFS. The configuration check of R186: which check decides, and its ranges over the rational numbers. -/

namespace Sys2Proof.Machine

theorem validate_of_not_polyphonyOk {c : Config} (hp : ¬PolyphonyOk c) : validate c = .cfgParam := by
  rw [← polyphonyLegal_iff] at hp
  simp [validate, hp]

theorem validate_of_not_algOk {c : Config} (hp : PolyphonyOk c) (ha : ¬AlgOk c) : validate c = .cfgAlg := by
  rw [← algLegal_iff] at ha
  simp [validate, (polyphonyLegal_iff c).mpr hp, ha]

/-- After the checks on POLYPHONY and ALG[v] there is only check 3 left to fail. -/
theorem validate_of_not_legal {c : Config} (hp : PolyphonyOk c) (ha : AlgOk c) (h : ¬Legal c) :
    validate c = .cfgParam := by
  rw [legal_iff_checks] at h
  have h3 : ¬(recordComplete c && sharedLegal c.shared && c.voices.all voiceConfigLegal) = true := fun h3 =>
    h ⟨(polyphonyLegal_iff c).mpr hp, (algLegal_iff c).mpr ha, h3⟩
  rw [validate, (polyphonyLegal_iff c).mpr hp, (algLegal_iff c).mpr ha, Bool.eq_false_iff.mpr h3]
  rfl

/-- Settles O17: each clause by the check that decides it; a legal record has its ranges. -/
theorem resetValidatesTheRecord : Obligations.ResetValidatesTheRecord := by
  intro c
  refine ⟨fun hp => ?_, fun hp ha => ?_, fun hp ha hr => ?_, fun hp ha hr hc => ?_⟩
  · exact congrArg faultBits (validate_of_not_polyphonyOk hp)
  · exact congrArg faultBits (validate_of_not_algOk hp ha)
  · have hlegal : ¬Legal c := fun h => by
      obtain ⟨-, -, -, hranges⟩ := (legal_iff c).mp h
      exact hr hranges
    exact congrArg faultBits (validate_of_not_legal hp ha hlegal)
  · have hlegal : Legal c := (legal_iff c).mpr ⟨hp, ha, hc, hr⟩
    exact congrArg faultBits hlegal

end Sys2Proof.Machine
end

section
/-! PROOFS. From a state in order nothing stops the machine (R187, R213): a rendering completes or ends in NONFINITE,
and every event of the host is answered. -/

namespace Sys2Proof.Machine

/-! ### renderings that do not stop -/

/-- A rendering that completes or ends in NONFINITE. -/
def NeverStuck {α : Type} (x : Rendered α) : Prop := ∀ e, x ≠ .stuck e

theorem neverStuck_done {α : Type} (a : α) : NeverStuck (.done a) := by
  intro e h
  cases h

theorem NeverStuck.andThen {α β : Type} {x : Rendered α} {f : α → Rendered β} (hx : NeverStuck x)
    (hf : ∀ a, x = .done a → NeverStuck (f a)) : NeverStuck (x.andThen f) := by
  intro e h
  rcases Rendered.andThen_eq_stuck.mp h with h | ⟨a, ha, h⟩
  · exact hx e h
  · exact hf a ha e h

/-! ### one operator -/

/-- At a finite position there are a table entry and a sample, whatever PHASE was (R61, R122, R131). -/
theorem sampleStep_neverStuck {g : GlobalConfig} (hg : RecordOk g) (r : OpRef) (m : Int) {o : Operator} (ho : OpOk o)
    (hvol : UnitLevel o.noteVol) : NeverStuck (sampleStep g r m o) := by
  cases hidx : roundIdx g.idxTie (readPosition g m o) with
  | none =>
    rw [sampleStep_eq_nonfinite_iff.mpr ((roundIdx_eq_none_iff _ _).mp hidx)]
    exact fun e h => by cases h
  | some idx =>
    obtain ⟨w, hw, hwrange⟩ := hg.tableSample idx
    obtain ⟨hfin, hlow, hhigh⟩ := fmul_level_range hwrange (ho.unitLevel_gain hvol)
    obtain ⟨y, hy, -⟩ := trunc_isSample hfin hlow hhigh
    have hlisted : g.idxTie.isListed = true := (idxTie_isListed_iff _).mpr hg.shared.idxTie
    rw [sampleStep_eq_done.mpr ⟨idx, w, hidx, hlisted, hw, hy, rfl⟩]
    exact neverStuck_done _

/-- What holds between micro-steps and keeps each sample from stopping keeps the rendering from stopping. -/
theorem RenderInvariant.renderSamples_neverStuck {g : GlobalConfig} {between : PendingWrites → Operator → Prop}
    {after : Operator → Prop} (hinv : RenderInvariant g between after) {r : OpRef}
    (hsample : ∀ m p o, between p o → NeverStuck (sampleStep g r m o)) {m : Buffer} :
    ∀ {p : PendingWrites} {t : Nat} {o : Operator}, between p o → NeverStuck (Machine.renderSamples g r p t m o) := by
  induction m with
  | nil => exact fun _ => neverStuck_done _
  | cons x xs ih =>
    intro p t o hp
    have hdue := hinv.due t p o hp
    rw [Machine.renderSamples]
    refine (hsample x _ _ hdue).andThen fun a ha => ?_
    exact (ih (hinv.sample _ _ _ _ _ _ hdue ha)).andThen fun b _ => neverStuck_done _

/-- What is fixed while a PULL of a legal machine renders: its record, and hits that carry a level and a pitch. -/
structure ContextOk (c : RenderContext) : Prop where
  record : RecordOk c.shared
  overlaps : ∀ o ∈ c.overlaps, OverlapOk o

/-- An operator of a machine in order, with its levels in range (R28, R30, R35, R186). -/
structure OpInRange (o : Operator) : Prop where
  ok : OpOk o
  levels : LevelsOk o

/-- OP_RENDER stops nowhere, whatever the modulator and the writes that land in it (R71, R126). -/
theorem OpInRange.opRender_neverStuck {c : RenderContext} (hc : ContextOk c) (r : OpRef) (m : Buffer) {o : Operator}
    (h : OpInRange o) : NeverStuck (opRender c r m o) :=
  (levelsOk_renderInvariant hc.record.shared).renderSamples_neverStuck
    (fun m _ _ hbetween => by
      obtain ⟨ho, hlevels, -⟩ := hbetween
      exact sampleStep_neverStuck hc.record r m ho hlevels.noteVol)
    ⟨h.ok, h.levels, writesOk_pendingFor hc.overlaps r h.ok.cfg.rate⟩

/-! ### one voice -/

theorem renderCarriers_neverStuck {c : RenderContext} (hc : ContextOk c) {x : Voice} (h2 : OpInRange x.op2)
    (h1 : OpInRange x.op1) (v : Nat) (m2 : Buffer) (m1 : Buffer → Buffer) (vout : Buffer → Buffer → Buffer) :
    NeverStuck (renderCarriers c v m2 m1 vout x) :=
  (h2.opRender_neverStuck hc _ m2).andThen fun a2 _ =>
    (h1.opRender_neverStuck hc _ (m1 a2.1)).andThen fun _ _ => neverStuck_done _

/-- Every legal selector names a routing, and each routing renders the carriers (R141 to R146). -/
theorem routeSelected_neverStuck {c : RenderContext} (hc : ContextOk c) {x : Voice} (halg : x.alg.toNat ≤ 4)
    (h2 : OpInRange x.op2) (h1 : OpInRange x.op1) (v : Nat) (out3 : Buffer) :
    NeverStuck (routeSelected c v out3 x) := by
  rcases routeSelected_cases (P := fun _ => True) (c := c) (v := v) (out3 := out3) x trivial (fun _ _ _ _ => trivial)
    trivial with ⟨hillegal, -⟩ | ⟨m2, m1, vout, -, -, hr⟩
  · omega
  · rw [hr]
    exact renderCarriers_neverStuck hc h2 h1 v m2 m1 vout

/-- A voice of a machine in order, with its levels in range. -/
structure VoiceInRange (x : Voice) : Prop where
  alg : x.alg.toNat ≤ 4
  ops : AllOps OpInRange x

theorem VoiceInRange.voiceRender_neverStuck {c : RenderContext} (hc : ContextOk c) {x : Voice} (h : VoiceInRange x)
    (v f : Nat) : NeverStuck (voiceRender c v f x) :=
  ((h.ops .op3).opRender_neverStuck hc _ (silence f)).andThen fun a3 _ =>
    routeSelected_neverStuck hc (x := { x with op3 := a3.2 }) h.alg (h.ops .op2) (h.ops .op1) v a3.1

theorem renderVoices_neverStuck {c : RenderContext} (hc : ContextOk c) (f : Nat) {xs : List Voice} :
    ∀ {v : Nat}, (∀ x ∈ xs, VoiceInRange x) → NeverStuck (renderVoices c f v xs) := by
  induction xs with
  | nil => exact fun _ => neverStuck_done _
  | cons x xs ih =>
    intro v hvoices
    obtain ⟨hx, hxs⟩ := List.forall_mem_cons.mp hvoices
    exact (hx.voiceRender_neverStuck hc v f).andThen fun _ _ => (ih hxs).andThen fun _ _ => neverStuck_done _

/-! ### the commands -/

/-- A PULL of a machine in order renders, since every overlapping hit goes to one of its voices (R25, R189). -/
theorem InOrder.pullRenders {s : State} (h : InOrder s) (h0 : s.fault = 0#4) : PullRenders s where
  listed := (commitMode_isListed_iff _).mpr (h.legal h0).sharedOk.commitMode
  voices := List.ne_nil_of_length_pos ((h.legal h0).polyphony_eq ▸ (h.legal h0).polyphony_le.1)
  polyphony := (h.legal h0).polyphony_eq
  overlaps o ho := by
    obtain ⟨hp, hp255⟩ := (h.legal h0).polyphony_le
    obtain ⟨-, hvoice⟩ := overlapsOf_countsHits (by omega) (h.voice h0)
    obtain ⟨i, hi⟩ := List.mem_iff_getElem?.mp ho
    rw [hvoice i o hi]
    exact Nat.mod_lt _ hp

theorem InOrder.voiceInRange {s : State} (h : InOrder s) (hlevel : InLevel s) (h0 : s.fault = 0#4) {x : Voice}
    (hx : x ∈ s.voices) : VoiceInRange x :=
  ⟨(h.legal h0).alg_le hx, fun k => ⟨h.opOk h0 x hx k, hlevel h0 x hx k⟩⟩

/-- A PULL that passes its checks answers a next state, in both modes (R71, R101, R187). -/
theorem InOrder.renderPull_next {s : State} (h : InOrder s) (hlevel : InLevel s) (h0 : s.fault = 0#4) (f : Nat) :
    ∃ t, renderPull f s = .next t := by
  have hg := (h.legal h0).recordOk
  have hc : ContextOk (pullContext s) := ⟨hg, overlapsOf_ok hg.shared⟩
  have hnever := renderVoices_neverStuck hc f (v := 0) fun x hx => h.voiceInRange hlevel h0 hx
  rw [renderPull_eq_endPull (h.pullRenders h0)]
  cases hr : renderVoices (pullContext s) f 0 s.voices with
  | done a => exact ⟨_, rfl⟩
  | nonfinite r => exact ⟨_, rfl⟩
  | stuck e => exact absurd hr (hnever e)

theorem InOrder.execPull_next {s : State} (h : InOrder s) (hlevel : InLevel s) (f : Nat) :
    ∃ t, Machine.execPull f s = .next t := by
  by_cases h0 : s.fault = 0#4
  case neg => exact ⟨_, execPull_of_faulted h0 f⟩
  cases hp : s.primed with
  | false => exact ⟨_, execPull_of_unprimed h0 hp f⟩
  | true =>
    cases hf : framesLegal s.shared f with
    | false => exact ⟨_, execPull_of_badFrames h0 hp hf⟩
    | true =>
      rw [execPull_of_framesLegal h0 hp hf]
      exact h.renderPull_next hlevel h0 f

theorem execPrime_next (s : State) : ∃ t, execPrime s = .next t := by
  by_cases h0 : s.fault = 0#4
  case neg => exact ⟨_, execPrime_of_faulted h0⟩
  cases hp : s.primed with
  | false => exact ⟨_, execPrime_of_unprimed h0 hp⟩
  | true => exact ⟨_, execPrime_of_primed h0 hp⟩

/-- A hit finds the voice RR, which is below P (R25, R164). -/
theorem InOrder.execNoteOn_next {s : State} (h : InOrder s) (n v : Nat) : ∃ t, Machine.execNoteOn n v s = .next t := by
  by_cases h0 : s.fault = 0#4
  case neg => exact ⟨_, execNoteOn_of_faulted h0 n v⟩
  cases hf : noteLookup s.shared n with
  | none => exact ⟨_, execNoteOn_of_miss h0 hf v⟩
  | some f => exact ⟨_, execNoteOn_of_hit h0 hf (h.voice h0) (h.legal h0).polyphony_eq⟩

theorem InOrder.command_next {w : Word} {i : Instr} (hd : decode w = .ok i) {s : State} (h : InOrder s)
    (hlevel : InLevel s) : ∃ t, Machine.exec i s = .next t := by
  rcases decode_cases hd with rfl | ⟨f, -, rfl⟩ | ⟨n, v, -, -, rfl⟩
  · exact execPrime_next s
  · exact h.execPull_next hlevel f
  · exact h.execNoteOn_next n v

/-! ### the step -/

/-- With nothing issued FMD waits (R211). -/
theorem step_of_host_eq_nil {s : State} (hwait : voiceWaiting s = none) (hhost : s.host = []) : step s = .next s := by
  rw [step, fetch_of_voiceWaiting_eq_none hwait, fetchEvent, hhost]

theorem step_of_reset {s : State} {c : Config} {rest : List HostEvent} (hwait : voiceWaiting s = none)
    (hhost : s.host = .reset c :: rest) : step s = .next (applyReset c (takeEvent rest s)) := by
  rw [step, fetch_of_voiceWaiting_eq_none hwait, fetchEvent, hhost]

/-- Every word is answered, legal or not. -/
theorem InOrder.step_word_next {s : State} (h : InOrder s) (hlevel : InLevel s) (hwait : voiceWaiting s = none)
    {w : Word} {l : NoteLanding} {rest : List HostEvent}
    (hhost : s.host = .command w :: rest ∨ s.host = .during w l :: rest) : ∃ t, step s = .next t := by
  cases hd : decode w with
  | error e => exact ⟨_, step_of_illegalWord hwait hhost hd⟩
  | ok i =>
    have hlevel' : InLevel (Machine.takeEvent rest s) := hlevel.of_eq rfl rfl
    rw [stepRunsTheDecodedCommand s w l rest i hwait hd hhost]
    exact (h.takeEvent rest).command_next hd hlevel'

/-- Settles O57: by the host's next event, and for the PULL by its checks. -/
theorem dutifulRunsNeverStop : Obligations.DutifulRunsNeverStop := by
  intro s h hlevel hwait
  refine ⟨?_, fun f h0 hprimed hf1 hfmax => ?_⟩
  · cases hhost : s.host with
    | nil => exact ⟨s, step_of_host_eq_nil hwait hhost⟩
    | cons ev rest =>
      cases ev with
      | command w => exact h.step_word_next hlevel hwait (l := landAtStart) (.inl hhost)
      | during w l => exact h.step_word_next hlevel hwait (.inr hhost)
      | reset c => exact ⟨_, step_of_reset hwait hhost⟩
  · obtain ⟨t, ht⟩ := h.renderPull_next hlevel h0 f
    have hexec : execPull f s = renderPull f s :=
      execPull_of_framesLegal h0 hprimed ((framesLegal_iff _ _).mpr ⟨hf1, hfmax⟩)
    exact ⟨t, hexec.trans ht, renderPull_fault h0 ht⟩

end Sys2Proof.Machine
end

section
/-! PROOFS. Reset as the host's next event: what it loads and the values it leaves (R38, R210). -/

namespace Sys2Proof.Machine

@[simp] theorem applyReset_config (c : Config) (s : State) : (applyReset c s).config = c :=
  State.config_resetWith c

/-- Every operator that reset leaves is one of R210, made of the record. -/
theorem applyReset_voiceOp {c : Config} {s : State} {x : Voice} (hx : x ∈ (applyReset c s).voices) (k : OpIx) :
    ∃ o, voiceOp x k = Operator.ofConfig c.shared o := by
  rw [applyReset_voices] at hx
  obtain ⟨v, -, rfl⟩ := List.mem_map.mp hx
  exact voiceOp_ofConfig c.shared v k

/-- Settles O16: the step is that reset, and each operator of its state is one of R210. -/
theorem resetLoadsTheRecord : Obligations.ResetLoadsTheRecord := by
  intro s c rest hwait hhost
  refine ⟨_, step_of_reset hwait hhost, applyReset_config c _, applyReset_fault c _, applyReset_primed c _,
    applyReset_rr c _, applyReset_host c _, fun x hx k => ?_⟩
  obtain ⟨o, ho⟩ := applyReset_voiceOp hx k
  rw [ho]
  exact ⟨rfl, rfl, rfl, rfl, rfl, rfl⟩

end Sys2Proof.Machine
end
